-- ==== Sys2Proof/Word.lean ====
section
/-! DEFINITION. The two word types of the crimson6502 CORE (00_scope.md R4: 8-bit bytes and registers,
16-bit addresses and program counter). -/

namespace Sys2Proof

/-- A byte, and the width of `a`, `x`, `y`, `s` (R4). -/
abbrev Byte := BitVec 8

/-- A 16-bit value: the width of `pc` and of an address (R4). Its addition wraps modulo 65536 (R32). -/
abbrev Word := BitVec 16

end Sys2Proof
end

