-- ==== Sys2Proof/Config.lean ====
section
/-! DEFINITION. What the implementation fixes (00_scope.md R4, R5). There is no free value: no rule leaves the
result of an instruction undefined (93_implementation_defined.md, end of Part 1). -/

namespace Sys2Proof

/-- The switch `PTR_HI_WRAP` (00_scope.md R5, 20_memory.md R34): where the high byte of a zero-page pointer at
`0xFF` is read from. The setting in force is `Machine.ptrHiWrap`. -/
inductive PtrHiWrap where
  /-- From `(p + 1) mod 256`: cell `0x0000` for the pointer at `0xFF`. -/
  | zeroPage
  /-- From `p + 1`: cell `0x0100` for the pointer at `0xFF`. -/
  | linear
  deriving DecidableEq, Repr

/-- `RESET_PC` (R4, R200): the constant `reset()` sets `pc` to. -/
def Config.resetPc : Word := 0x1000#16

/-- The number of memory bytes (R4, R30). -/
def Config.memorySize : Nat := 65536

end Sys2Proof
end

