-- ==== Sys2Proof/Syntax.lean ====
section
/-! DEFINITION. The instructions: mnemonics, addressing modes, operands, and `Instr` with one constructor per row
of spec/opcode_table.json (30_encoding.md R50, R51, R53; 00_scope.md R8). -/

namespace Sys2Proof

/-- The tag of an addressing mode's index register (40_addressing.md R72). -/
inductive IndexedBy where
  | none | x | y
  deriving DecidableEq, Repr

/-- The addressing modes (00_scope.md R8). `indirect .none` is a value of the type that nothing implements
(40_addressing.md R82). -/
inductive AddrMode where
  | implied
  | immediate
  | zeroPage (idx : IndexedBy)
  | absolute (idx : IndexedBy)
  | indirect (idx : IndexedBy)
  deriving DecidableEq, Repr

/-- The 13 mnemonics (00_scope.md R3). -/
inductive Mnemonic where
  | lda | ldx | ldy
  | sta | stx | sty
  | tax | tay | tsx | txa | txs | tya
  | nop
  deriving DecidableEq, Repr

/-- The four mnemonic families, one evaluator each (50_step_and_host.md R162). -/
inductive Family where
  | load | store | transfer | noOp
  deriving DecidableEq, Repr

/-- The pair the spec's decoder returns (00_scope.md R8, "Instruction"; 30_encoding.md R52). -/
structure Form where
  mnemonic : Mnemonic
  mode : AddrMode
  deriving DecidableEq, Repr

/-- The operand bytes of an instruction, assembled (30_encoding.md R51): none, `op8`, or the little-endian `op16`. -/
inductive Operand where
  | none
  | byte (op8 : Byte)
  | word (op16 : Word)
  deriving DecidableEq, Repr

/-- One constructor per row of spec/opcode_table.json, carrying the row's operand bytes (R51). -/
inductive Instr where
  -- LDA (41_load.md R95 to R102)
  | ldaImmediate (op8 : Byte)
  | ldaZeroPage (op8 : Byte)
  | ldaZeroPageX (op8 : Byte)
  | ldaAbsolute (op16 : Word)
  | ldaAbsoluteX (op16 : Word)
  | ldaAbsoluteY (op16 : Word)
  | ldaIndirectX (op8 : Byte)
  | ldaIndirectY (op8 : Byte)
  -- LDX (R103 to R107)
  | ldxImmediate (op8 : Byte)
  | ldxZeroPage (op8 : Byte)
  | ldxZeroPageY (op8 : Byte)
  | ldxAbsolute (op16 : Word)
  | ldxAbsoluteY (op16 : Word)
  -- LDY (R108 to R112)
  | ldyImmediate (op8 : Byte)
  | ldyZeroPage (op8 : Byte)
  | ldyZeroPageX (op8 : Byte)
  | ldyAbsolute (op16 : Word)
  | ldyAbsoluteX (op16 : Word)
  -- STA (42_store.md R125 to R131)
  | staZeroPage (op8 : Byte)
  | staZeroPageX (op8 : Byte)
  | staAbsolute (op16 : Word)
  | staAbsoluteX (op16 : Word)
  | staAbsoluteY (op16 : Word)
  | staIndirectX (op8 : Byte)
  | staIndirectY (op8 : Byte)
  -- STX (R132 to R134)
  | stxZeroPage (op8 : Byte)
  | stxZeroPageY (op8 : Byte)
  | stxAbsolute (op16 : Word)
  -- STY (R135 to R137)
  | styZeroPage (op8 : Byte)
  | styZeroPageX (op8 : Byte)
  | styAbsolute (op16 : Word)
  -- transfers (43_transfer.md R141 to R146) and NOP (44_nop.md R150)
  | tax
  | tay
  | tsx
  | txa
  | txs
  | tya
  | nop
  deriving DecidableEq, Repr

/-- The mnemonic and addressing mode a constructor stands for. -/
def Instr.form : Instr → Form
  | .ldaImmediate _ => ⟨.lda, .immediate⟩
  | .ldaZeroPage _ => ⟨.lda, .zeroPage .none⟩
  | .ldaZeroPageX _ => ⟨.lda, .zeroPage .x⟩
  | .ldaAbsolute _ => ⟨.lda, .absolute .none⟩
  | .ldaAbsoluteX _ => ⟨.lda, .absolute .x⟩
  | .ldaAbsoluteY _ => ⟨.lda, .absolute .y⟩
  | .ldaIndirectX _ => ⟨.lda, .indirect .x⟩
  | .ldaIndirectY _ => ⟨.lda, .indirect .y⟩
  | .ldxImmediate _ => ⟨.ldx, .immediate⟩
  | .ldxZeroPage _ => ⟨.ldx, .zeroPage .none⟩
  | .ldxZeroPageY _ => ⟨.ldx, .zeroPage .y⟩
  | .ldxAbsolute _ => ⟨.ldx, .absolute .none⟩
  | .ldxAbsoluteY _ => ⟨.ldx, .absolute .y⟩
  | .ldyImmediate _ => ⟨.ldy, .immediate⟩
  | .ldyZeroPage _ => ⟨.ldy, .zeroPage .none⟩
  | .ldyZeroPageX _ => ⟨.ldy, .zeroPage .x⟩
  | .ldyAbsolute _ => ⟨.ldy, .absolute .none⟩
  | .ldyAbsoluteX _ => ⟨.ldy, .absolute .x⟩
  | .staZeroPage _ => ⟨.sta, .zeroPage .none⟩
  | .staZeroPageX _ => ⟨.sta, .zeroPage .x⟩
  | .staAbsolute _ => ⟨.sta, .absolute .none⟩
  | .staAbsoluteX _ => ⟨.sta, .absolute .x⟩
  | .staAbsoluteY _ => ⟨.sta, .absolute .y⟩
  | .staIndirectX _ => ⟨.sta, .indirect .x⟩
  | .staIndirectY _ => ⟨.sta, .indirect .y⟩
  | .stxZeroPage _ => ⟨.stx, .zeroPage .none⟩
  | .stxZeroPageY _ => ⟨.stx, .zeroPage .y⟩
  | .stxAbsolute _ => ⟨.stx, .absolute .none⟩
  | .styZeroPage _ => ⟨.sty, .zeroPage .none⟩
  | .styZeroPageX _ => ⟨.sty, .zeroPage .x⟩
  | .styAbsolute _ => ⟨.sty, .absolute .none⟩
  | .tax => ⟨.tax, .implied⟩
  | .tay => ⟨.tay, .implied⟩
  | .tsx => ⟨.tsx, .implied⟩
  | .txa => ⟨.txa, .implied⟩
  | .txs => ⟨.txs, .implied⟩
  | .tya => ⟨.tya, .implied⟩
  | .nop => ⟨.nop, .implied⟩

/-- The operand a constructor carries. -/
def Instr.operand : Instr → Operand
  | .ldaImmediate b | .ldaZeroPage b | .ldaZeroPageX b | .ldaIndirectX b | .ldaIndirectY b => .byte b
  | .ldaAbsolute w | .ldaAbsoluteX w | .ldaAbsoluteY w => .word w
  | .ldxImmediate b | .ldxZeroPage b | .ldxZeroPageY b => .byte b
  | .ldxAbsolute w | .ldxAbsoluteY w => .word w
  | .ldyImmediate b | .ldyZeroPage b | .ldyZeroPageX b => .byte b
  | .ldyAbsolute w | .ldyAbsoluteX w => .word w
  | .staZeroPage b | .staZeroPageX b | .staIndirectX b | .staIndirectY b => .byte b
  | .staAbsolute w | .staAbsoluteX w | .staAbsoluteY w => .word w
  | .stxZeroPage b | .stxZeroPageY b | .styZeroPage b | .styZeroPageX b => .byte b
  | .stxAbsolute w | .styAbsolute w => .word w
  | .tax | .tay | .tsx | .txa | .txs | .tya | .nop => .none

end Sys2Proof
end

