-- ==== Sys2Proof/WellFormed.lean ====
section
/-! DEFINITION. Which mnemonic and mode pairs exist, and which operand a mode takes: the "used by" and "format"
columns of 30_encoding.md R57, transcribed on their own (the decoder and the encoder read the tables of R53). -/

namespace Sys2Proof

/-- 30_encoding.md R57, column "used by". -/
def Mnemonic.hasMode (m : Mnemonic) : AddrMode → Bool
  | .implied => m ∈ [.tax, .tay, .tsx, .txa, .txs, .tya, .nop]
  | .immediate => m ∈ [.lda, .ldx, .ldy]
  | .zeroPage .none => m ∈ [.lda, .ldx, .ldy, .sta, .stx, .sty]
  | .zeroPage .x => m ∈ [.lda, .ldy, .sta, .sty]
  | .zeroPage .y => m ∈ [.ldx, .stx]
  | .absolute .none => m ∈ [.lda, .ldx, .ldy, .sta, .stx, .sty]
  | .absolute .x => m ∈ [.lda, .ldy, .sta]
  | .absolute .y => m ∈ [.lda, .ldx, .sta]
  | .indirect .x => m ∈ [.lda, .sta]
  | .indirect .y => m ∈ [.lda, .sta]
  | .indirect .none => false

/-- 30_encoding.md R57, column "format": Implied takes no operand, the Absolute modes `op16`, the others `op8`. -/
def Operand.fits (o : Operand) : AddrMode → Bool
  | .implied => match o with | .none => true | _ => false
  | .absolute _ => match o with | .word _ => true | _ => false
  | .immediate | .zeroPage _ | .indirect _ => match o with | .byte _ => true | _ => false

/-- A pair with an operand that the instruction set has. -/
def Form.wellFormed (f : Form) (o : Operand) : Bool :=
  f.mnemonic.hasMode f.mode && o.fits f.mode

/-- Every check on an instruction: its pair exists and its operand is the mode's. -/
def Instr.wellFormed (i : Instr) : Bool := i.form.wellFormed i.operand

end Sys2Proof
end

