-- ==== Sys2Proof/Decode.lean ====
section
/-! DEFINITION. The decoder (30_encoding.md R50 to R57), total on any bytes and rejecting by name, and after it
the encoder, written from the second table of R53. -/

namespace Sys2Proof

/-- Why bytes are no instruction. -/
inductive DecodeReject where
  /-- No byte to read. -/
  | noBytes
  /-- The first byte is not in the first column of R53 (R54): nothing-decoded. -/
  | undefinedOpcode (b : Byte)
  /-- The operand bytes the mode asks for are not there; never so for a fetch, which reads three bytes. -/
  | truncated (b : Byte)
  deriving DecidableEq, Repr

/-- What the decoder answers: an instruction and the bytes after it, or why there is none. -/
inductive Decoded where
  | instr (i : Instr) (rest : List Byte)
  | rejected (why : DecodeReject)
  deriving DecidableEq, Repr

/-- A row of the opcode map: byte value, mnemonic and mode. -/
structure OpRow where
  opcode : Byte
  form : Form
  deriving DecidableEq, Repr

/-- R53, rows `0x81` to `0x9D`. -/
def opcodeRows8 : List OpRow :=
  [⟨0x81, ⟨.sta, .indirect .x⟩⟩, ⟨0x84, ⟨.sty, .zeroPage .none⟩⟩, ⟨0x85, ⟨.sta, .zeroPage .none⟩⟩,
   ⟨0x86, ⟨.stx, .zeroPage .none⟩⟩, ⟨0x8A, ⟨.txa, .implied⟩⟩, ⟨0x8C, ⟨.sty, .absolute .none⟩⟩,
   ⟨0x8D, ⟨.sta, .absolute .none⟩⟩, ⟨0x8E, ⟨.stx, .absolute .none⟩⟩] ++
  [⟨0x91, ⟨.sta, .indirect .y⟩⟩, ⟨0x94, ⟨.sty, .zeroPage .x⟩⟩, ⟨0x95, ⟨.sta, .zeroPage .x⟩⟩,
   ⟨0x96, ⟨.stx, .zeroPage .y⟩⟩, ⟨0x98, ⟨.tya, .implied⟩⟩, ⟨0x99, ⟨.sta, .absolute .y⟩⟩,
   ⟨0x9A, ⟨.txs, .implied⟩⟩, ⟨0x9D, ⟨.sta, .absolute .x⟩⟩]

/-- R53, rows `0xA0` to `0xEA`. -/
def opcodeRowsA : List OpRow :=
  [⟨0xA0, ⟨.ldy, .immediate⟩⟩, ⟨0xA1, ⟨.lda, .indirect .x⟩⟩, ⟨0xA2, ⟨.ldx, .immediate⟩⟩,
   ⟨0xA4, ⟨.ldy, .zeroPage .none⟩⟩, ⟨0xA5, ⟨.lda, .zeroPage .none⟩⟩, ⟨0xA6, ⟨.ldx, .zeroPage .none⟩⟩,
   ⟨0xA8, ⟨.tay, .implied⟩⟩, ⟨0xA9, ⟨.lda, .immediate⟩⟩, ⟨0xAA, ⟨.tax, .implied⟩⟩,
   ⟨0xAC, ⟨.ldy, .absolute .none⟩⟩, ⟨0xAD, ⟨.lda, .absolute .none⟩⟩, ⟨0xAE, ⟨.ldx, .absolute .none⟩⟩] ++
  [⟨0xB1, ⟨.lda, .indirect .y⟩⟩, ⟨0xB4, ⟨.ldy, .zeroPage .x⟩⟩, ⟨0xB5, ⟨.lda, .zeroPage .x⟩⟩,
   ⟨0xB6, ⟨.ldx, .zeroPage .y⟩⟩, ⟨0xB9, ⟨.lda, .absolute .y⟩⟩, ⟨0xBA, ⟨.tsx, .implied⟩⟩,
   ⟨0xBC, ⟨.ldy, .absolute .x⟩⟩, ⟨0xBD, ⟨.lda, .absolute .x⟩⟩, ⟨0xBE, ⟨.ldx, .absolute .y⟩⟩,
   ⟨0xEA, ⟨.nop, .implied⟩⟩]

/-- The opcode map of R53, sorted by opcode byte. -/
def opcodeTable : List OpRow := opcodeRows8 ++ opcodeRowsA

/-- The spec's decoder (R52): the row whose first column equals the byte, or nothing-decoded. -/
def decodeOpcode (b : Byte) : Option Form :=
  (opcodeTable.find? fun r => r.opcode == b).map OpRow.form

/-- `mode.length()`: bytes after the opcode byte (R57); not defined for Indirect(None). -/
def AddrMode.length : AddrMode → Option Nat
  | .implied => some 0
  | .immediate => some 1
  | .zeroPage _ => some 1
  | .absolute _ => some 2
  | .indirect .x => some 1
  | .indirect .y => some 1
  | .indirect .none => none

/-- The 16-bit value of two bytes (00_scope.md R7): `hi * 256 + lo`. -/
def joinBytes (hi lo : Byte) : Word := BitVec.ofNat 16 (hi.toNat * 256 + lo.toNat)

/-- The low byte of a 16-bit value (R7). -/
def lo8 (w : Word) : Byte := w.extractLsb' 0 8

/-- The high byte of a 16-bit value (R7). -/
def hi8 (w : Word) : Byte := w.extractLsb' 8 8

/-- Operand assembly (R51): `n` operand bytes off the front, the first of two the low half. -/
def takeOperand (n : Nat) (bs : List Byte) : Option (Operand × List Byte) :=
  match n, bs with
  | 0, rest => some (.none, rest)
  | 1, b :: rest => some (.byte b, rest)
  | 2, lo :: hi :: rest => some (.word (joinBytes hi lo), rest)
  | _, _ => none

/-- The constructor for a decoded pair and its operand; none for a pair R53 does not list. -/
def Instr.ofForm (f : Form) (o : Operand) : Option Instr :=
  match f.mnemonic, f.mode, o with
  | .lda, .immediate, .byte b => some (.ldaImmediate b)
  | .lda, .zeroPage .none, .byte b => some (.ldaZeroPage b)
  | .lda, .zeroPage .x, .byte b => some (.ldaZeroPageX b)
  | .lda, .absolute .none, .word w => some (.ldaAbsolute w)
  | .lda, .absolute .x, .word w => some (.ldaAbsoluteX w)
  | .lda, .absolute .y, .word w => some (.ldaAbsoluteY w)
  | .lda, .indirect .x, .byte b => some (.ldaIndirectX b)
  | .lda, .indirect .y, .byte b => some (.ldaIndirectY b)
  | .ldx, .immediate, .byte b => some (.ldxImmediate b)
  | .ldx, .zeroPage .none, .byte b => some (.ldxZeroPage b)
  | .ldx, .zeroPage .y, .byte b => some (.ldxZeroPageY b)
  | .ldx, .absolute .none, .word w => some (.ldxAbsolute w)
  | .ldx, .absolute .y, .word w => some (.ldxAbsoluteY w)
  | .ldy, .immediate, .byte b => some (.ldyImmediate b)
  | .ldy, .zeroPage .none, .byte b => some (.ldyZeroPage b)
  | .ldy, .zeroPage .x, .byte b => some (.ldyZeroPageX b)
  | .ldy, .absolute .none, .word w => some (.ldyAbsolute w)
  | .ldy, .absolute .x, .word w => some (.ldyAbsoluteX w)
  | .sta, .zeroPage .none, .byte b => some (.staZeroPage b)
  | .sta, .zeroPage .x, .byte b => some (.staZeroPageX b)
  | .sta, .absolute .none, .word w => some (.staAbsolute w)
  | .sta, .absolute .x, .word w => some (.staAbsoluteX w)
  | .sta, .absolute .y, .word w => some (.staAbsoluteY w)
  | .sta, .indirect .x, .byte b => some (.staIndirectX b)
  | .sta, .indirect .y, .byte b => some (.staIndirectY b)
  | .stx, .zeroPage .none, .byte b => some (.stxZeroPage b)
  | .stx, .zeroPage .y, .byte b => some (.stxZeroPageY b)
  | .stx, .absolute .none, .word w => some (.stxAbsolute w)
  | .sty, .zeroPage .none, .byte b => some (.styZeroPage b)
  | .sty, .zeroPage .x, .byte b => some (.styZeroPageX b)
  | .sty, .absolute .none, .word w => some (.styAbsolute w)
  | .tax, .implied, .none => some .tax
  | .tay, .implied, .none => some .tay
  | .tsx, .implied, .none => some .tsx
  | .txa, .implied, .none => some .txa
  | .txs, .implied, .none => some .txs
  | .tya, .implied, .none => some .tya
  | .nop, .implied, .none => some .nop
  | _, _, _ => none

/-- The instruction at the front of a byte sequence, and the bytes after it. The first byte alone decides the
length (R56). -/
def decode : List Byte → Decoded
  | [] => .rejected .noBytes
  | op :: rest =>
    match decodeOpcode op with
    | none => .rejected (.undefinedOpcode op)
    | some f =>
      match f.mode.length with
      | none => .rejected (.undefinedOpcode op)
      | some n =>
        match takeOperand n rest with
        | none => .rejected (.truncated op)
        | some (o, rest') =>
          match Instr.ofForm f o with
          | none => .rejected (.undefinedOpcode op)
          | some i => .instr i rest'

/-- The three bytes of a number whose bit 0 is the first byte's least significant bit; bits from `nbits` up are
taken as 0. Three bytes is the longest instruction (R50). -/
def tableBytes (nbits w : Nat) : List Byte :=
  let v := w % 2 ^ nbits
  [BitVec.ofNat 8 v, BitVec.ofNat 8 (v / 256), BitVec.ofNat 8 (v / 65536)]

/-- The instruction the decoder reads from the bits `w` of a row of spec/opcode_table.json. -/
def decodeTableWord (nbits w : Nat) : Option Instr :=
  match decode (tableBytes nbits w) with
  | .instr i _ => some i
  | .rejected _ => none

/-- The second table of R53: the byte of a mnemonic and mode, none for a `-` cell. -/
def opcodeOf : Mnemonic → AddrMode → Option Byte
  | .lda, .immediate => some 0xA9
  | .lda, .zeroPage .none => some 0xA5
  | .lda, .zeroPage .x => some 0xB5
  | .lda, .absolute .none => some 0xAD
  | .lda, .absolute .x => some 0xBD
  | .lda, .absolute .y => some 0xB9
  | .lda, .indirect .x => some 0xA1
  | .lda, .indirect .y => some 0xB1
  | .ldx, .immediate => some 0xA2
  | .ldx, .zeroPage .none => some 0xA6
  | .ldx, .zeroPage .y => some 0xB6
  | .ldx, .absolute .none => some 0xAE
  | .ldx, .absolute .y => some 0xBE
  | .ldy, .immediate => some 0xA0
  | .ldy, .zeroPage .none => some 0xA4
  | .ldy, .zeroPage .x => some 0xB4
  | .ldy, .absolute .none => some 0xAC
  | .ldy, .absolute .x => some 0xBC
  | .sta, .zeroPage .none => some 0x85
  | .sta, .zeroPage .x => some 0x95
  | .sta, .absolute .none => some 0x8D
  | .sta, .absolute .x => some 0x9D
  | .sta, .absolute .y => some 0x99
  | .sta, .indirect .x => some 0x81
  | .sta, .indirect .y => some 0x91
  | .stx, .zeroPage .none => some 0x86
  | .stx, .zeroPage .y => some 0x96
  | .stx, .absolute .none => some 0x8E
  | .sty, .zeroPage .none => some 0x84
  | .sty, .zeroPage .x => some 0x94
  | .sty, .absolute .none => some 0x8C
  | .tax, .implied => some 0xAA
  | .tay, .implied => some 0xA8
  | .tsx, .implied => some 0xBA
  | .txa, .implied => some 0x8A
  | .txs, .implied => some 0x9A
  | .tya, .implied => some 0x98
  | .nop, .implied => some 0xEA
  | _, _ => none

/-- Whether the evaluators have an arm for a pair: it is no `-` cell of R53's second table (60_exceptions.md R182). -/
def Form.supported (f : Form) : Bool := (opcodeOf f.mnemonic f.mode).isSome

/-- The operand bytes in memory order (R35): the low half of `op16` first. -/
def encodeOperand : Operand → List Byte
  | .none => []
  | .byte b => [b]
  | .word w => [lo8 w, hi8 w]

/-- The bytes of an instruction (R50): the opcode byte, then the operand bytes. -/
def encode (i : Instr) : List Byte :=
  match opcodeOf i.form.mnemonic i.form.mode with
  | some b => b :: encodeOperand i.operand
  | none => []

/-- Instruction length (00_scope.md R8): `1 + mode.length()`. -/
def Instr.length (i : Instr) : Nat :=
  match i.form.mode.length with
  | some n => 1 + n
  | none => 1

end Sys2Proof
end

