-- ==== Sys2Proof/Machine/State.lean ====
section
/-! DEFINITION. All the state of the hardware (10_state.md R10 to R19), the reasons a step can stop, and the state
after reset. -/

namespace Sys2Proof.Machine

/-- Memory (20_memory.md R30): the bytes that differ from `unlistedByte`, by strictly rising address
(`Memory.wf` in Machine/Ops.lean). -/
abbrev Memory := List Host.Cell

/-- The seven flags (10_state.md R14); no bit position is architectural. -/
structure Flags where
  /-- Carry -/
  c : Bool
  /-- Zero -/
  z : Bool
  /-- Interrupt-disable -/
  i : Bool
  /-- Decimal -/
  d : Bool
  /-- Break -/
  b : Bool
  /-- Overflow -/
  v : Bool
  /-- Negative -/
  n : Bool
  deriving DecidableEq, Repr

/-- Everything the machine holds between steps: ProcessorState (R10), Memory (R19), CPUStats (R18). -/
structure State where
  /-- accumulator (R11) -/
  a : Byte
  /-- index register X (R11) -/
  x : Byte
  /-- index register Y (R11) -/
  y : Byte
  /-- stack pointer (R12) -/
  s : Byte
  /-- program counter (R13) -/
  pc : Word
  /-- the flags (R14) -/
  flags : Flags
  /-- memory (R19) -/
  mem : Memory
  /-- `total_cycles` (R18) -/
  totalCycles : Nat
  /-- `instructions_executed` (R18) -/
  instructionsExecuted : Nat
  deriving DecidableEq, Repr

/-- The hardware's two fault kinds (60_exceptions.md R180), with what each reports. A fault changes no state (R184). -/
inductive Fault where
  /-- Code 1, raised by the step when the byte fetched at `pc` is none of the 38 opcodes (R181).
  Exact: the spec says the step ends so (log 6 for the payload). -/
  | decodeFailure (pc : Word) (opcode : Byte)
  /-- Code 2, raised by an evaluator or the resolver on a mnemonic and mode it has no arm for (R182).
  No step raises it (R183). Safe: the model stops as the spec says. -/
  | invariantViolation (pc : Word) (opcode : Byte) (mnemonic : Mnemonic) (mode : AddrMode)
  deriving DecidableEq, Repr

/-- Reasons to refuse an instruction. -/
inductive Refusal where
  /-- An instruction that has no meaning in the model. Raised by no arm: every instruction has its meaning. Safe. -/
  | notModelled (mnemonic : String)
  deriving DecidableEq, Repr

/-- The record `inspect_state` returns (R10, 50_step_and_host.md R168). -/
structure ProcessorState where
  a : Byte
  x : Byte
  y : Byte
  s : Byte
  pc : Word
  flags : Flags
  deriving DecidableEq, Repr

/-- Construction (70_reset_and_hazards.md R201, 50_step_and_host.md R173): the launch gives ProcessorState and
Memory, the counters start at 0. -/
def State.construct (p : ProcessorState) (m : Memory) : State :=
  ⟨p.a, p.x, p.y, p.s, p.pc, p.flags, m, 0, 0⟩

/-- DESIGN CHOICE (log 1): the values taken for INIT_REGS and INIT_PC, which the spec leaves open (R5, R201). -/
def ProcessorState.initial : ProcessorState :=
  ⟨0, 0, 0, 0, 0, ⟨false, false, false, false, false, false, false⟩⟩

/-- The machine right after reset: constructed with the values of log 1 and log 2, then `pc` at `RESET_PC` (R200). -/
def State.reset : State :=
  { State.construct ProcessorState.initial [] with pc := Config.resetPc }

end Sys2Proof.Machine
end

