-- ==== Sys2Proof/Machine/Ops.lean ====
section
/-! DEFINITION. The named operations over memory and registers (20_memory.md R30 to R37, 10_state.md R13, R21),
the commit of a step (50_step_and_host.md R163) and the raising of a fault (60_exceptions.md R184). -/

namespace Sys2Proof.Machine

/-! ### Memory -/

/-- DESIGN CHOICE (log 2): what an address that memory does not list reads as. -/
def unlistedByte : Byte := 0x00#8

/-- The byte memory holds at an address. -/
def Memory.lookup : Memory → Nat → Byte
  | [], _ => unlistedByte
  | (k, v) :: rest, addr => if k = addr then v else Memory.lookup rest addr

/-- Memory with one byte replaced, in canonical form: an entry is never `unlistedByte`. -/
def Memory.update : Memory → Nat → Byte → Memory
  | [], addr, v => if v = unlistedByte then [] else [(addr, v)]
  | (k, w) :: rest, addr, v =>
    if addr < k then
      if v = unlistedByte then (k, w) :: Memory.update rest addr v else (addr, v) :: (k, w) :: rest
    else if addr = k then
      if v = unlistedByte then Memory.update rest addr v else (addr, v) :: rest
    else (k, w) :: Memory.update rest addr v

/-- Canonical from a lowest address on: strictly rising, below 65536 (R30), no entry equal to `unlistedByte`. -/
def Memory.wfFrom (lo : Nat) : Memory → Bool
  | [] => true
  | (k, v) :: rest => decide (lo ≤ k) && decide (k < Config.memorySize) && decide (v ≠ unlistedByte) && Memory.wfFrom (k + 1) rest

/-- The canonical form of memory. -/
def Memory.wf (m : Memory) : Bool := Memory.wfFrom 0 m

/-- `MemRead(addr, 1)` (20_memory.md R31). -/
def Memory.read (m : Memory) (addr : Word) : Byte := Memory.lookup m addr.toNat

/-- `MemWrite(addr, 1, v)` (20_memory.md R31). -/
def Memory.write (m : Memory) (addr : Word) (v : Byte) : Memory := Memory.update m addr.toNat v

/-- `ReadWord(addr)` (20_memory.md R33): little-endian, the second byte at `(addr + 1) mod 65536`. -/
def Memory.readWord (m : Memory) (addr : Word) : Word :=
  joinBytes (Memory.read m (addr + 1)) (Memory.read m addr)

/-- A contiguous write, wrapping at 65536 (50_step_and_host.md R167): ascending, the last written wins. -/
def Memory.writeBytes : Memory → Word → List Byte → Memory
  | m, _, [] => m
  | m, addr, b :: bs => Memory.writeBytes (Memory.write m addr b) (addr + 1) bs

/-! ### Bit fields -/

/-- `zext_16(b)` (00_scope.md R7). -/
def zext16 (b : Byte) : Word := b.setWidth 16

/-- `page(w) = w & 0xFF00` (00_scope.md R7). -/
def page (w : Word) : Word := w &&& 0xFF00#16

/-! ### The zero-page pointer -/

/-- The setting of the switch in force: `zero_page`, the spec's choice (R34, D9; log 4). -/
def ptrHiWrap : PtrHiWrap := .zeroPage

/-- Where the high byte of a zero-page pointer at `p` is (20_memory.md R34). -/
def pointerHighAddr (sw : PtrHiWrap) (p : Byte) : Word :=
  match sw with
  | .zeroPage => zext16 (p + 1)
  | .linear => zext16 p + 1

/-- `ReadWordZP(p)` (20_memory.md R34). -/
def Memory.readWordZP (sw : PtrHiWrap) (m : Memory) (p : Byte) : Word :=
  joinBytes (Memory.read m (pointerHighAddr sw p)) (Memory.read m (zext16 p))

/-! ### Registers -/

/-- The four 8-bit registers (10_state.md R10). -/
inductive Reg where
  | a | x | y | s
  deriving DecidableEq, Repr

/-- Reading a register. -/
def State.getReg (s : State) : Reg → Byte
  | .a => s.a
  | .x => s.x
  | .y => s.y
  | .s => s.s

/-- Writing a register. -/
def State.setReg (s : State) (r : Reg) (v : Byte) : State :=
  match r with
  | .a => { s with a := v }
  | .x => { s with x := v }
  | .y => { s with y := v }
  | .s => { s with s := v }

/-- `pc <- (pc + 1 + mode.length()) mod 65536` (10_state.md R13, R17), the instruction length given. -/
def State.advance (s : State) (instructionLength : Nat) : State :=
  { s with pc := s.pc + BitVec.ofNat 16 instructionLength }

/-- The store of one byte. -/
def State.writeByte (s : State) (addr : Word) (v : Byte) : State :=
  { s with mem := Memory.write s.mem addr v }

/-! ### Ending a step -/

/-- What an evaluator produces (10_state.md R20); the new state holds the advanced `pc` and, for a store, the
written byte (90_conflicts.md C2, C5). -/
structure EvaluationResult where
  newState : State
  cycles : Nat
  instructionLength : Nat
  deriving DecidableEq, Repr

/-- The commit (50_step_and_host.md R163): the new state, and both counters grown. -/
def commit (r : EvaluationResult) : State :=
  { r.newState with
    totalCycles := r.newState.totalCycles + r.cycles
    instructionsExecuted := r.newState.instructionsExecuted + 1 }

/-- Entering a fault (60_exceptions.md R184): the step ends, nothing is written or saved, control goes nowhere
inside the machine, the host is told. The state stays the one the step began in (`stateAfter`). There is no
return from it in the machine (R187). -/
def raiseFault (f : Fault) : Host.Outcome State Fault Refusal := .fault f

/-- The fault of an evaluator or the resolver that has no arm for a pair (R182), with what R180 says it reports. -/
def invariantViolationAt (f : Form) (s : State) : Fault :=
  .invariantViolation s.pc (Memory.read s.mem s.pc) f.mnemonic f.mode

/-- A step whose evaluator was handed the pair `f`: it commits, or it is an InvariantViolation (R162, R163). -/
def complete (f : Form) (s : State) (r : Option EvaluationResult) : Host.Outcome State Fault Refusal :=
  match r with
  | some r => .next (commit r)
  | none => raiseFault (invariantViolationAt f s)

/-- The machine's state after a step: on a fault the state before it (R184). -/
def stateAfter (s : State) : Host.Outcome State Fault Refusal → State
  | .next t => t
  | .fault _ => s
  | .refused _ => s

/-- The code of a fault (60_exceptions.md R180). -/
def faultCode : Fault → Nat
  | .decodeFailure _ _ => 1
  | .invariantViolation _ _ _ _ => 2

end Sys2Proof.Machine
end

