-- ==== Sys2Proof/Machine/Flags.lean ====
section
/-! DEFINITION. The one flag computation of the hardware (10_state.md R15, R16). -/

namespace Sys2Proof.Machine

/-- `SetZN(v)` on the flags (10_state.md R16): Z when the value is zero, N its bit 7, the others unchanged. -/
def flagsZN (f : Flags) (v : Byte) : Flags :=
  { f with z := v == 0x00#8, n := v.getLsbD 7 }

/-- `SetZN(v)` on the state. -/
def State.setZN (s : State) (v : Byte) : State :=
  { s with flags := flagsZN s.flags v }

end Sys2Proof.Machine
end

