-- ==== Sys2Proof/Machine/Operands.lean ====
section
/-! DEFINITION. The addressing-mode resolver (40_addressing.md R70 to R83) and its two wrappers. The operand bytes
come with the instruction (log 11); pointer and data bytes are read from memory. -/

namespace Sys2Proof.Machine

/-- `idxval(idx)` (40_addressing.md R72). -/
def idxval (s : State) : IndexedBy → Byte
  | .none => 0x00#8
  | .x => s.x
  | .y => s.y

/-- The resolver's two outputs (R70). -/
structure Resolved where
  effective : Word
  pageCrossed : Bool
  deriving DecidableEq, Repr

/-- R74: the operand byte's own address. -/
def resolveImmediate (s : State) : Resolved := ⟨s.pc + 1, false⟩

/-- R75: 8-bit wraparound, so the result stays in page 0. -/
def resolveZeroPage (idx : IndexedBy) (op8 : Byte) (s : State) : Resolved :=
  ⟨zext16 (op8 + idxval s idx), false⟩

/-- R76: 16-bit wraparound; crossed when the page changes. -/
def resolveAbsolute (idx : IndexedBy) (base : Word) (s : State) : Resolved :=
  let effective := base + zext16 (idxval s idx)
  ⟨effective, page base != page effective⟩

/-- The address of the pointer Indirect(X) reads (R77). -/
def pointerX (op8 : Byte) (s : State) : Byte := op8 + s.x

/-- R77: the index before the indirection. -/
def resolveIndirectX (sw : PtrHiWrap) (op8 : Byte) (s : State) : Resolved :=
  ⟨Memory.readWordZP sw s.mem (pointerX op8 s), false⟩

/-- R78: the index after the indirection. -/
def resolveIndirectY (sw : PtrHiWrap) (op8 : Byte) (s : State) : Resolved :=
  let base := Memory.readWordZP sw s.mem op8
  let effective := base + zext16 s.y
  ⟨effective, hi8 base != hi8 effective⟩

/-- `resolve(mode, state, memory)` (R70); none for what the resolver does not implement: Implied, which has no
effective address (R73), Indirect(None) (R82), and an operand that is not the mode's (log 12). -/
def resolve (sw : PtrHiWrap) (mode : AddrMode) (o : Operand) (s : State) : Option Resolved :=
  match mode, o with
  | .immediate, .byte _ => some (resolveImmediate s)
  | .zeroPage idx, .byte op8 => some (resolveZeroPage idx op8 s)
  | .absolute idx, .word op16 => some (resolveAbsolute idx op16 s)
  | .indirect .x, .byte op8 => some (resolveIndirectX sw op8 s)
  | .indirect .y, .byte op8 => some (resolveIndirectY sw op8 s)
  | _, _ => none

/-- A loaded byte and whether a page was crossed on the way to it (R80). -/
structure ReadResult where
  value : Byte
  pageCrossed : Bool
  deriving DecidableEq, Repr

/-- `read_operand` (R80): the byte at the effective address; for Immediate that byte is `op8` itself (R51, R74; log 11). -/
def readOperand (sw : PtrHiWrap) (mode : AddrMode) (o : Operand) (s : State) : Option ReadResult :=
  match mode, o with
  | .immediate, .byte op8 => some ⟨op8, false⟩
  | _, _ => (resolve sw mode o s).map fun r => ⟨Memory.read s.mem r.effective, r.pageCrossed⟩

/-- `write_operand` (R81): the byte written at the effective address; `page_crossed` is discarded. -/
def writeOperand (sw : PtrHiWrap) (mode : AddrMode) (o : Operand) (s : State) (v : Byte) : Option State :=
  (resolve sw mode o s).map fun r => s.writeByte r.effective v

end Sys2Proof.Machine
end

