-- ==== Sys2Proof/Machine/Load.lean ====
section
/-! DEFINITION. The load family LDA, LDX, LDY (41_load.md R90 to R112). -/

namespace Sys2Proof.Machine

/-- The mnemonic's target register (41_load.md R92, R93, R94). -/
def loadTarget : Mnemonic → Option Reg
  | .lda => some .a
  | .ldx => some .x
  | .ldy => some .y
  | _ => none

/-- `load_cycles` (41_load.md R91); none where R207 says "does not exist". -/
def loadCycles (mode : AddrMode) (pageCrossed : Bool) : Option Nat :=
  match mode with
  | .implied => none
  | .immediate => some 2
  | .zeroPage .none => some 3
  | .zeroPage .x => some 4
  | .zeroPage .y => some 4
  | .absolute .none => some 4
  | .absolute .x => some (if pageCrossed then 5 else 4)
  | .absolute .y => some (if pageCrossed then 5 else 4)
  | .indirect .x => some 6
  | .indirect .y => some (if pageCrossed then 6 else 5)
  | .indirect .none => none

/-- The load evaluator (41_load.md R90); none is its InvariantViolation arm (60_exceptions.md R182). -/
def evaluateLoad (sw : PtrHiWrap) (f : Form) (o : Operand) (s : State) : Option EvaluationResult :=
  if f.supported then
    match loadTarget f.mnemonic, f.mode.length, readOperand sw f.mode o s with
    | some target, some len, some r =>
      (loadCycles f.mode r.pageCrossed).map fun c =>
        { newState := ((s.setReg target r.value).setZN r.value).advance (1 + len)
          cycles := c
          instructionLength := 1 + len }
    | _, _, _ => none
  else none

/-- A whole load step, under a setting of the switch. -/
def runLoad (sw : PtrHiWrap) (f : Form) (o : Operand) (s : State) : Host.Outcome State Fault Refusal :=
  complete f s (evaluateLoad sw f o s)

/-- R95 -/
def execLdaImmediate (op8 : Byte) (s : State) : Host.Outcome State Fault Refusal :=
  runLoad ptrHiWrap ⟨.lda, .immediate⟩ (.byte op8) s
/-- R96 -/
def execLdaZeroPage (op8 : Byte) (s : State) : Host.Outcome State Fault Refusal :=
  runLoad ptrHiWrap ⟨.lda, .zeroPage .none⟩ (.byte op8) s
/-- R97 -/
def execLdaZeroPageX (op8 : Byte) (s : State) : Host.Outcome State Fault Refusal :=
  runLoad ptrHiWrap ⟨.lda, .zeroPage .x⟩ (.byte op8) s
/-- R98 -/
def execLdaAbsolute (op16 : Word) (s : State) : Host.Outcome State Fault Refusal :=
  runLoad ptrHiWrap ⟨.lda, .absolute .none⟩ (.word op16) s
/-- R99 -/
def execLdaAbsoluteX (op16 : Word) (s : State) : Host.Outcome State Fault Refusal :=
  runLoad ptrHiWrap ⟨.lda, .absolute .x⟩ (.word op16) s
/-- R100 -/
def execLdaAbsoluteY (op16 : Word) (s : State) : Host.Outcome State Fault Refusal :=
  runLoad ptrHiWrap ⟨.lda, .absolute .y⟩ (.word op16) s
/-- R101 -/
def execLdaIndirectX (op8 : Byte) (s : State) : Host.Outcome State Fault Refusal :=
  runLoad ptrHiWrap ⟨.lda, .indirect .x⟩ (.byte op8) s
/-- R102 -/
def execLdaIndirectY (op8 : Byte) (s : State) : Host.Outcome State Fault Refusal :=
  runLoad ptrHiWrap ⟨.lda, .indirect .y⟩ (.byte op8) s
/-- R103 -/
def execLdxImmediate (op8 : Byte) (s : State) : Host.Outcome State Fault Refusal :=
  runLoad ptrHiWrap ⟨.ldx, .immediate⟩ (.byte op8) s
/-- R104 -/
def execLdxZeroPage (op8 : Byte) (s : State) : Host.Outcome State Fault Refusal :=
  runLoad ptrHiWrap ⟨.ldx, .zeroPage .none⟩ (.byte op8) s
/-- R105 -/
def execLdxZeroPageY (op8 : Byte) (s : State) : Host.Outcome State Fault Refusal :=
  runLoad ptrHiWrap ⟨.ldx, .zeroPage .y⟩ (.byte op8) s
/-- R106 -/
def execLdxAbsolute (op16 : Word) (s : State) : Host.Outcome State Fault Refusal :=
  runLoad ptrHiWrap ⟨.ldx, .absolute .none⟩ (.word op16) s
/-- R107 -/
def execLdxAbsoluteY (op16 : Word) (s : State) : Host.Outcome State Fault Refusal :=
  runLoad ptrHiWrap ⟨.ldx, .absolute .y⟩ (.word op16) s
/-- R108 -/
def execLdyImmediate (op8 : Byte) (s : State) : Host.Outcome State Fault Refusal :=
  runLoad ptrHiWrap ⟨.ldy, .immediate⟩ (.byte op8) s
/-- R109 -/
def execLdyZeroPage (op8 : Byte) (s : State) : Host.Outcome State Fault Refusal :=
  runLoad ptrHiWrap ⟨.ldy, .zeroPage .none⟩ (.byte op8) s
/-- R110 -/
def execLdyZeroPageX (op8 : Byte) (s : State) : Host.Outcome State Fault Refusal :=
  runLoad ptrHiWrap ⟨.ldy, .zeroPage .x⟩ (.byte op8) s
/-- R111 -/
def execLdyAbsolute (op16 : Word) (s : State) : Host.Outcome State Fault Refusal :=
  runLoad ptrHiWrap ⟨.ldy, .absolute .none⟩ (.word op16) s
/-- R112 -/
def execLdyAbsoluteX (op16 : Word) (s : State) : Host.Outcome State Fault Refusal :=
  runLoad ptrHiWrap ⟨.ldy, .absolute .x⟩ (.word op16) s

end Sys2Proof.Machine
end

