-- ==== Sys2Proof/Machine/Nop.lean ====
section
/-! DEFINITION. The no-op family (44_nop.md R150). -/

namespace Sys2Proof.Machine

/-- The no-op evaluator (R150); none is its InvariantViolation arm (60_exceptions.md R182). -/
def evaluateNop (f : Form) (s : State) : Option EvaluationResult :=
  if f.supported && f.mnemonic == .nop then
    some { newState := s.advance 1, cycles := 2, instructionLength := 1 }
  else none

/-- A whole no-op step. -/
def runNop (f : Form) (s : State) : Host.Outcome State Fault Refusal :=
  complete f s (evaluateNop f s)

/-- R150 -/
def execNop (s : State) : Host.Outcome State Fault Refusal :=
  runNop ⟨.nop, .implied⟩ s

end Sys2Proof.Machine
end

