-- ==== Sys2Proof/Machine/Store.lean ====
section
/-! DEFINITION. The store family STA, STX, STY (42_store.md R120 to R137). -/

namespace Sys2Proof.Machine

/-- The mnemonic's source register (42_store.md R122, R123, R124). -/
def storeSource : Mnemonic → Option Reg
  | .sta => some .a
  | .stx => some .x
  | .sty => some .y
  | _ => none

/-- `store_cycles` (42_store.md R121): the crossed cost always; none where R207 says "does not exist". -/
def storeCycles : AddrMode → Option Nat
  | .implied => none
  | .immediate => none
  | .zeroPage .none => some 3
  | .zeroPage .x => some 4
  | .zeroPage .y => some 4
  | .absolute .none => some 4
  | .absolute .x => some 5
  | .absolute .y => some 5
  | .indirect .x => some 6
  | .indirect .y => some 6
  | .indirect .none => none

/-- The store evaluator (42_store.md R120); none is its InvariantViolation arm (60_exceptions.md R182). -/
def evaluateStore (sw : PtrHiWrap) (f : Form) (o : Operand) (s : State) : Option EvaluationResult :=
  if f.supported then
    match storeSource f.mnemonic, f.mode.length, storeCycles f.mode with
    | some source, some len, some c =>
      (writeOperand sw f.mode o s (s.getReg source)).map fun t =>
        { newState := t.advance (1 + len)
          cycles := c
          instructionLength := 1 + len }
    | _, _, _ => none
  else none

/-- A whole store step, under a setting of the switch. -/
def runStore (sw : PtrHiWrap) (f : Form) (o : Operand) (s : State) : Host.Outcome State Fault Refusal :=
  complete f s (evaluateStore sw f o s)

/-- R125 -/
def execStaZeroPage (op8 : Byte) (s : State) : Host.Outcome State Fault Refusal :=
  runStore ptrHiWrap ⟨.sta, .zeroPage .none⟩ (.byte op8) s
/-- R126 -/
def execStaZeroPageX (op8 : Byte) (s : State) : Host.Outcome State Fault Refusal :=
  runStore ptrHiWrap ⟨.sta, .zeroPage .x⟩ (.byte op8) s
/-- R127 -/
def execStaAbsolute (op16 : Word) (s : State) : Host.Outcome State Fault Refusal :=
  runStore ptrHiWrap ⟨.sta, .absolute .none⟩ (.word op16) s
/-- R128 -/
def execStaAbsoluteX (op16 : Word) (s : State) : Host.Outcome State Fault Refusal :=
  runStore ptrHiWrap ⟨.sta, .absolute .x⟩ (.word op16) s
/-- R129 -/
def execStaAbsoluteY (op16 : Word) (s : State) : Host.Outcome State Fault Refusal :=
  runStore ptrHiWrap ⟨.sta, .absolute .y⟩ (.word op16) s
/-- R130 -/
def execStaIndirectX (op8 : Byte) (s : State) : Host.Outcome State Fault Refusal :=
  runStore ptrHiWrap ⟨.sta, .indirect .x⟩ (.byte op8) s
/-- R131 -/
def execStaIndirectY (op8 : Byte) (s : State) : Host.Outcome State Fault Refusal :=
  runStore ptrHiWrap ⟨.sta, .indirect .y⟩ (.byte op8) s
/-- R132 -/
def execStxZeroPage (op8 : Byte) (s : State) : Host.Outcome State Fault Refusal :=
  runStore ptrHiWrap ⟨.stx, .zeroPage .none⟩ (.byte op8) s
/-- R133 -/
def execStxZeroPageY (op8 : Byte) (s : State) : Host.Outcome State Fault Refusal :=
  runStore ptrHiWrap ⟨.stx, .zeroPage .y⟩ (.byte op8) s
/-- R134 -/
def execStxAbsolute (op16 : Word) (s : State) : Host.Outcome State Fault Refusal :=
  runStore ptrHiWrap ⟨.stx, .absolute .none⟩ (.word op16) s
/-- R135 -/
def execStyZeroPage (op8 : Byte) (s : State) : Host.Outcome State Fault Refusal :=
  runStore ptrHiWrap ⟨.sty, .zeroPage .none⟩ (.byte op8) s
/-- R136 -/
def execStyZeroPageX (op8 : Byte) (s : State) : Host.Outcome State Fault Refusal :=
  runStore ptrHiWrap ⟨.sty, .zeroPage .x⟩ (.byte op8) s
/-- R137 -/
def execStyAbsolute (op16 : Word) (s : State) : Host.Outcome State Fault Refusal :=
  runStore ptrHiWrap ⟨.sty, .absolute .none⟩ (.word op16) s

end Sys2Proof.Machine
end

