-- ==== Sys2Proof/Machine/Transfer.lean ====
section
/-! DEFINITION. The transfer family (43_transfer.md R140 to R146). -/

namespace Sys2Proof.Machine

/-- A row of R140's table: source, destination, and whether Z and N are written. -/
structure TransferRow where
  src : Reg
  dst : Reg
  writesZN : Bool
  deriving DecidableEq, Repr

/-- The fixed mapping of 43_transfer.md R140. -/
def transferRow : Mnemonic → Option TransferRow
  | .tax => some ⟨.a, .x, true⟩
  | .tay => some ⟨.a, .y, true⟩
  | .tsx => some ⟨.s, .x, true⟩
  | .txa => some ⟨.x, .a, true⟩
  | .txs => some ⟨.x, .s, false⟩
  | .tya => some ⟨.y, .a, true⟩
  | _ => none

/-- The transfer evaluator (R140); none is its InvariantViolation arm (60_exceptions.md R182). -/
def evaluateTransfer (f : Form) (s : State) : Option EvaluationResult :=
  if f.supported then
    (transferRow f.mnemonic).map fun r =>
      let v := s.getReg r.src
      let copied := s.setReg r.dst v
      { newState := (if r.writesZN then copied.setZN v else copied).advance 1
        cycles := 2
        instructionLength := 1 }
  else none

/-- A whole transfer step. -/
def runTransfer (f : Form) (s : State) : Host.Outcome State Fault Refusal :=
  complete f s (evaluateTransfer f s)

/-- R141 -/
def execTax (s : State) : Host.Outcome State Fault Refusal :=
  runTransfer ⟨.tax, .implied⟩ s
/-- R142 -/
def execTay (s : State) : Host.Outcome State Fault Refusal :=
  runTransfer ⟨.tay, .implied⟩ s
/-- R143 -/
def execTsx (s : State) : Host.Outcome State Fault Refusal :=
  runTransfer ⟨.tsx, .implied⟩ s
/-- R144 -/
def execTxa (s : State) : Host.Outcome State Fault Refusal :=
  runTransfer ⟨.txa, .implied⟩ s
/-- R145 -/
def execTxs (s : State) : Host.Outcome State Fault Refusal :=
  runTransfer ⟨.txs, .implied⟩ s
/-- R146 -/
def execTya (s : State) : Host.Outcome State Fault Refusal :=
  runTransfer ⟨.tya, .implied⟩ s

end Sys2Proof.Machine
end

