-- ==== Sys2Proof/Machine/Fetch.lean ====
section
/-! DEFINITION. Fetching an instruction (50_step_and_host.md R161, 20_memory.md R35, R43): its bytes are read from
memory at the time of the step. -/

namespace Sys2Proof.Machine

/-- The three bytes an instruction can take, at `pc`, `(pc + 1) mod 65536`, `(pc + 2) mod 65536` (R35, R50). A read
has no effect (20_memory.md R37), so bytes the instruction does not have are read here without consequence (log 8). -/
def fetchBytes (s : State) : List Byte :=
  [Memory.read s.mem s.pc, Memory.read s.mem (s.pc + 1), Memory.read s.mem (s.pc + 2)]

/-- What a fetch gives the step. -/
inductive Fetched where
  | instr (i : Instr)
  | fault (f : Fault)
  deriving DecidableEq, Repr

/-- Fetch and decode: the instruction at `pc`, or DecodeFailure (60_exceptions.md R181). -/
def fetchDecode (s : State) : Fetched :=
  match decode (fetchBytes s) with
  | .instr i _ => .instr i
  | .rejected _ => .fault (.decodeFailure s.pc (Memory.read s.mem s.pc))

/-- Bytes placed where the next fetch reads. -/
def placeAtPc (s : State) (bs : List Byte) : State :=
  { s with mem := Memory.writeBytes s.mem s.pc bs }

end Sys2Proof.Machine
end

