-- ==== Sys2Proof/Machine/Step.lean ====
section
/-! DEFINITION. One step (50_step_and_host.md R160): fetch, decode, dispatch, commit, or DecodeFailure. -/

namespace Sys2Proof.Machine

/-- `step1` (R160). -/
def step (s : State) : Host.Outcome State Fault Refusal :=
  match fetchDecode s with
  | .instr i => exec i s
  | .fault f => raiseFault f

/-- `s` with the instruction of bits `w` stored where `step` fetches next. -/
def State.withFetchWord (s : State) (nbits w : Nat) : State :=
  placeAtPc s (tableBytes nbits w)

end Sys2Proof.Machine
end

