-- ==== Sys2Proof/Machine/Evaluate.lean ====
section
/-! DEFINITION. The spec's dispatch by mnemonic family over pairs (50_step_and_host.md R162), for every pair the
types can build and either setting of the switch. `exec` is its value on the 38 pairs of the table. -/

namespace Sys2Proof.Machine

/-- The family of a mnemonic (R162). -/
def familyOf : Mnemonic → Family
  | .lda | .ldx | .ldy => .load
  | .sta | .stx | .sty => .store
  | .tax | .tay | .tsx | .txa | .txs | .tya => .transfer
  | .nop => .noOp

/-- The evaluator of the pair's family, run to its commit or to InvariantViolation (R162, R163, R182). -/
def evaluate (sw : PtrHiWrap) (f : Form) (o : Operand) (s : State) : Host.Outcome State Fault Refusal :=
  match familyOf f.mnemonic with
  | .load => runLoad sw f o s
  | .store => runStore sw f o s
  | .transfer => runTransfer f s
  | .noOp => runNop f s

end Sys2Proof.Machine
end

