-- ==== Sys2Proof/Machine/Accesses.lean ====
section
/-! DEFINITION. The memory accesses of a step in the spec's order (20_memory.md R37, R40 (b); 40_addressing.md R70;
92_eei_decisions.md D10; log 8). No state holds them: the order of reads cannot be observed. -/

namespace Sys2Proof.Machine

/-- One access of the memory ports (00_scope.md R6). -/
inductive Access where
  | read (addr : Word)
  | write (addr : Word) (v : Byte)
  deriving DecidableEq, Repr

/-- The addresses `resolve` reads, operand bytes before pointer bytes, low before high (40_addressing.md R70). -/
def resolveReads (sw : PtrHiWrap) (mode : AddrMode) (o : Operand) (s : State) : List Word :=
  match mode, o with
  | .zeroPage _, _ => [s.pc + 1]
  | .absolute _, _ => [s.pc + 1, s.pc + 2]
  | .indirect .x, .byte op8 => [s.pc + 1, zext16 (pointerX op8 s), pointerHighAddr sw (pointerX op8 s)]
  | .indirect .y, .byte op8 => [s.pc + 1, zext16 op8, pointerHighAddr sw op8]
  | _, _ => []

/-- The accesses after the opcode fetch: a load ends with its data read, a store with its write. -/
def evaluateAccesses (sw : PtrHiWrap) (f : Form) (o : Operand) (s : State) : List Access :=
  let reads := (resolveReads sw f.mode o s).map Access.read
  match familyOf f.mnemonic, resolve sw f.mode o s, storeSource f.mnemonic with
  | .load, some r, _ => reads ++ [.read r.effective]
  | .store, some r, some src => reads ++ [.write r.effective (s.getReg src)]
  | _, _, _ => []

/-- Every access of the step from `s`: the opcode byte, and after a successful decode the instruction's (R161, R184). -/
def stepAccesses (s : State) : List Access :=
  .read s.pc ::
    match fetchDecode s with
    | .instr i => evaluateAccesses ptrHiWrap i.form i.operand s
    | .fault _ => []

end Sys2Proof.Machine
end

