-- ==== Sys2Proof/Machine/HostOps.lean ====
section
/-! DEFINITION. What the host can do between steps (00_scope.md R6; 50_step_and_host.md R165 to R173;
70_reset_and_hazards.md R200, R202). -/

namespace Sys2Proof.Machine

/-- `reset()` (70_reset_and_hazards.md R200, R202): `pc` and nothing else. -/
def hostReset (s : State) : State := { s with pc := Config.resetPc }

/-- How a `step(n)` ended (50_step_and_host.md R165). -/
inductive StepReport where
  | completed
  | faulted (f : Fault)
  | refused (r : Refusal)
  deriving DecidableEq, Repr

/-- `step(n)` (R165): stops at the first fault, the earlier steps stay committed, the rest are not attempted. -/
def stepN : Nat → State → State × StepReport
  | 0, s => (s, .completed)
  | n + 1, s =>
    match step s with
    | .next t => stepN n t
    | .fault f => (s, .faulted f)
    | .refused r => (s, .refused r)

/-- `load(address, bytes)` (R167). -/
def hostLoad (s : State) (addr : Word) (bytes : List Byte) : State :=
  { s with mem := Memory.writeBytes s.mem addr bytes }

/-- `inspect_state()` (R168). -/
def inspectState (s : State) : ProcessorState := ⟨s.a, s.x, s.y, s.s, s.pc, s.flags⟩

/-- The host's commands and observations (00_scope.md R6). -/
inductive HostCommand where
  | reset
  | step (n : Nat)
  | load (addr : Word) (bytes : List Byte)
  | readByte (addr : Word)
  | writeByte (addr : Word) (v : Byte)
  | readWord (addr : Word)
  | inspectState
  | statistics
  deriving DecidableEq, Repr

/-- What a command returns to the host. -/
inductive HostReply where
  | done
  | report (r : StepReport)
  | byte (b : Byte)
  | word (w : Word)
  | snapshot (p : ProcessorState)
  | counters (totalCycles instructionsExecuted : Nat)
  deriving DecidableEq, Repr

/-- One host transaction, run to completion between steps (R171). -/
def hostCommand (c : HostCommand) (s : State) : State × HostReply :=
  match c with
  | .reset => (hostReset s, .done)
  | .step n => ((stepN n s).1, .report (stepN n s).2)
  | .load addr bytes => (hostLoad s addr bytes, .done)
  | .readByte addr => (s, .byte (Memory.read s.mem addr))
  | .writeByte addr v => (s.writeByte addr v, .done)
  | .readWord addr => (s, .word (Memory.readWord s.mem addr))
  | .inspectState => (s, .snapshot (Machine.inspectState s))
  | .statistics => (s, .counters s.totalCycles s.instructionsExecuted)

end Sys2Proof.Machine
end

