-- ==== Sys2Proof/Safety.lean ====
section
/-! DEFINITION. What counts as a safe state and a safe run, and the machine's invariants, in the terms the
statements use. -/

namespace Sys2Proof

open Machine

/-- A step from `s` completes: the byte at `pc` is one of the 38 opcodes (70_reset_and_hazards.md R204 item 5,
60_exceptions.md R183). -/
def Safety.opcodeDefined (s : State) : Bool := (decodeOpcode (Memory.read s.mem s.pc)).isSome

/-- `n` steps from `s` all complete (50_step_and_host.md R165). -/
def Safety.safeRun : Nat → State → Bool
  | 0, _ => true
  | n + 1, s =>
    match step s with
    | .next t => Safety.safeRun n t
    | .fault _ => false
    | .refused _ => false

/-- Memory is in canonical form. -/
abbrev Safety.memoryCanonical (s : State) : Prop := Memory.wf s.mem = true

/-- `SetZN` never leaves Z and N both set (10_state.md R16). -/
abbrev Safety.notZeroAndNegative (s : State) : Prop := (s.flags.z && s.flags.n) = false

/-- Every instruction costs 2 to 6 cycles (70_reset_and_hazards.md R208), so the counters keep this distance. -/
abbrev Safety.countersInStep (s : State) : Prop :=
  2 * s.instructionsExecuted ≤ s.totalCycles ∧ s.totalCycles ≤ 6 * s.instructionsExecuted

/-- The machine's invariant. -/
abbrev Safety.Inv (s : State) : Prop :=
  Safety.memoryCanonical s ∧ Safety.notZeroAndNegative s ∧ Safety.countersInStep s

end Sys2Proof
end

