-- ==== Sys2Proof/Certificates/Slice0/Obligations.lean ====
section
/-! DEFINITION. The statements for the provers, from the numbered rules of spec/. `Sys2Proof.Rules` writes the
rules' own arithmetic out in unbounded naturals wrapped explicitly (00_scope.md R7), apart from the functions the
meanings use. -/

namespace Sys2Proof.Rules

open Sys2Proof.Machine

/-- `(e) mod 65536` as a 16-bit value. -/
def wrap16 (n : Nat) : Word := BitVec.ofNat 16 (n % 65536)

/-- `zext_16((op8 + idx) mod 256)` (40_addressing.md R75). -/
def zeroPageAddr (op8 idx : Byte) : Word := BitVec.ofNat 16 ((op8.toNat + idx.toNat) % 256)

/-- `(base + idx) mod 65536` (40_addressing.md R76, R78). -/
def indexedAddr (base : Word) (idx : Byte) : Word := wrap16 (base.toNat + idx.toNat)

/-- The base and the effective address lie in different 256-byte pages (40_addressing.md R76, R79). -/
def crosses (base : Word) (idx : Byte) : Bool := decide (base.toNat / 256 ≠ (indexedAddr base idx).toNat / 256)

/-- The little-endian word at zero-page cells `p` and `(p + 1) mod 256`: R34 with `PTR_HI_WRAP = zero_page` (log 4). -/
def pointer (m : Memory) (p : Byte) : Word :=
  BitVec.ofNat 16 (256 * (Memory.read m (zeroPageAddr p 1)).toNat + (Memory.read m (zeroPageAddr p 0)).toNat)

/-- The flags after `SetZN(v)` (10_state.md R16). -/
def withZN (f : Flags) (v : Byte) : Flags :=
  { f with z := decide (v.toNat = 0), n := decide (128 ≤ v.toNat) }

/-- `s` with `pc` moved past an instruction of `len` bytes and the counters grown by one instruction of `cycles`
cycles; nothing else changed (50_step_and_host.md R163). -/
def counted (s : State) (len cycles : Nat) : State :=
  { s with
    pc := wrap16 (s.pc.toNat + len)
    totalCycles := s.totalCycles + cycles
    instructionsExecuted := s.instructionsExecuted + 1 }

/-- `counted`, with Z and N computed from `v`. -/
def flagged (s : State) (v : Byte) (len cycles : Nat) : State :=
  { counted s len cycles with flags := withZN s.flags v }

/-- `flagged`, with `v` in one register: what a load or a copy of `v` leaves. -/
def copiedTo (r : Reg) (s : State) (v : Byte) (len cycles : Nat) : State :=
  match r with
  | .a => { flagged s v len cycles with a := v }
  | .x => { flagged s v len cycles with x := v }
  | .y => { flagged s v len cycles with y := v }
  | .s => { flagged s v len cycles with s := v }

/-- `counted`, with the byte `v` stored at `addr`. -/
def stored (s : State) (addr : Word) (v : Byte) (len cycles : Nat) : State :=
  { counted s len cycles with mem := Memory.write s.mem addr v }

/-- 41_load.md R91, the table. -/
def loadCost : AddrMode → Bool → Nat
  | .immediate, _ => 2
  | .zeroPage .none, _ => 3
  | .zeroPage _, _ => 4
  | .absolute .none, _ => 4
  | .absolute _, crossed => if crossed then 5 else 4
  | .indirect .x, _ => 6
  | .indirect _, crossed => if crossed then 6 else 5
  | .implied, _ => 2

/-- 42_store.md R121, the table. -/
def storeCost : AddrMode → Nat
  | .zeroPage .none => 3
  | .zeroPage _ => 4
  | .absolute .none => 4
  | .absolute _ => 5
  | .indirect _ => 6
  | .implied => 2
  | .immediate => 2

/-- The register an instruction writes (41_load.md R92 to R94, 43_transfer.md R140): none for a store or NOP. -/
def destination : Mnemonic → Option Reg
  | .lda | .txa | .tya => some .a
  | .ldx | .tax | .tsx => some .x
  | .ldy | .tay => some .y
  | .txs => some .s
  | .sta | .stx | .sty | .nop => none

/-- The instructions that write no flag (10_state.md R15). -/
def keepsFlags : Mnemonic → Bool
  | .sta | .stx | .sty | .txs | .nop => true
  | _ => false

/-- `s` with the memory `m`; registers, `pc`, flags and counters as in `s`. -/
def withMemory (s : State) (m : Memory) : State := { s with mem := m }

/-- Memory after the writes of a list of accesses, in their order. -/
def applyWrites : List Access → Memory → Memory
  | [], m => m
  | .read _ :: rest, m => applyWrites rest m
  | .write addr v :: rest, m => applyWrites rest (Memory.write m addr v)

/-- Whether a byte is one of the 218 values R54 lists. -/
def listedUndefined (b : Byte) : Bool :=
  b.toNat ≤ 0x80 ||
  [0x82, 0x83, 0x87, 0x88, 0x89, 0x8B, 0x8F, 0x90, 0x92, 0x93, 0x97, 0x9B, 0x9C, 0x9E, 0x9F].contains b.toNat ||
  [0xA3, 0xA7, 0xAB, 0xAF, 0xB0, 0xB2, 0xB3, 0xB7, 0xB8, 0xBB, 0xBF].contains b.toNat ||
  (0xC0 ≤ b.toNat && b.toNat ≤ 0xE9) || 0xEB ≤ b.toNat

end Sys2Proof.Rules

section

open Sys2Proof Sys2Proof.Machine Sys2Proof.Rules

/-! ### Encoding -/

/-- Every well-formed instruction, with every operand, is what its bytes decode to, and no byte after them is
touched (30_encoding.md R50, R51, R56). The byte values themselves are the spec's general-knowledge passage G1 (log 7). -/
def Obligations.DecodeOfEncodeIsTheInstruction : Prop :=
  ∀ (i : Instr) (rest : List Byte), i.wellFormed = true → decode (encode i ++ rest) = .instr i rest

/-- Bytes that decode are exactly the decoded instruction's encoding and the rest: each encoding has one meaning
(R52, R56). -/
def Obligations.DecodedBytesAreTheEncoding : Prop :=
  ∀ (bs rest : List Byte) (i : Instr), decode bs = .instr i rest → bs = encode i ++ rest

/-- One word of each mnemonic, written out from the spec's binary column (R53). -/
def Obligations.WordsWrittenOutDecode : Prop :=
  decode [0b10101001, 0x42] = .instr (.ldaImmediate 0x42) [] ∧
  decode [0b10110110, 0x10] = .instr (.ldxZeroPageY 0x10) [] ∧
  decode [0b10111100, 0xFF, 0x12] = .instr (.ldyAbsoluteX 0x12FF) [] ∧
  decode [0b10010001, 0x86] = .instr (.staIndirectY 0x86) [] ∧
  decode [0b10001110, 0x03, 0x10] = .instr (.stxAbsolute 0x1003) [] ∧
  decode [0b10000100, 0xFF] = .instr (.styZeroPage 0xFF) [] ∧
  decode [0b10101010] = .instr .tax [] ∧ decode [0b10101000] = .instr .tay [] ∧
  decode [0b10111010] = .instr .tsx [] ∧ decode [0b10001010] = .instr .txa [] ∧
  decode [0b10011010] = .instr .txs [] ∧ decode [0b10011000] = .instr .tya [] ∧
  decode [0b11101010] = .instr .nop []

/-- The decoder's map and the map by mnemonic and mode are one map, and its cells are the pairs R57 says are used
(R53, R57). -/
def Obligations.OpcodeMapsAgree : Prop :=
  (∀ (b : Byte) (f : Form), decodeOpcode b = some f ↔ opcodeOf f.mnemonic f.mode = some b) ∧
  ∀ (m : Mnemonic) (mode : AddrMode), m.hasMode mode = (opcodeOf m mode).isSome

/-- R54: the 218 listed bytes, and no other, are nothing-decoded; a step that fetches one raises DecodeFailure. -/
def Obligations.ListedBytesAreNothingDecoded : Prop :=
  (∀ b : Byte, decodeOpcode b = none ↔ listedUndefined b = true) ∧
  ((List.range 256).filter fun n => listedUndefined (BitVec.ofNat 8 n)).length = 218 ∧
  ∀ s : State, listedUndefined (Memory.read s.mem s.pc) = true →
    step s = .fault (.decodeFailure s.pc (Memory.read s.mem s.pc))

/-! ### The step -/

/-- When the bytes at `pc` decode, the step is `exec` of the instruction on the same state; nothing is added around
it: the evaluator's state holds the advanced `pc` and the counters are part of the commit (R160, R163). -/
def Obligations.StepRunsTheDecodedInstruction : Prop :=
  ∀ (s : State) (i : Instr) (rest : List Byte), decode (fetchBytes s) = .instr i rest → step s = exec i s

/-- When memory holds an instruction's encoding from `pc` on, wrapping at 65536, the step runs it (R35, R160). -/
def Obligations.StepRunsTheInstructionItsBytesEncode : Prop :=
  ∀ (s : State) (i : Instr),
    (∀ (k : Nat) (h : k < (encode i).length), Memory.read s.mem (wrap16 (s.pc.toNat + k)) = (encode i)[k]) →
    step s = exec i s

/-- The operand an instruction is decoded with is the bytes after its opcode: `op8` the byte at `pc + 1`, `op16`
the little-endian word there (R51, R71; log 11). -/
def Obligations.OperandsAreTheBytesAfterTheOpcode : Prop :=
  ∀ (s : State) (i : Instr), fetchDecode s = .instr i →
    match i.operand with
    | .none => i.form.mode = .implied
    | .byte op8 => op8 = Memory.read s.mem (wrap16 (s.pc.toNat + 1))
    | .word op16 => op16.toNat =
        256 * (Memory.read s.mem (wrap16 (s.pc.toNat + 2))).toNat + (Memory.read s.mem (wrap16 (s.pc.toNat + 1))).toNat

/-- R181: a step raises DecodeFailure exactly when the byte at `pc` is nothing-decoded. What it reports is the
spec's decision D11 (log 6). -/
def Obligations.DecodeFailureExactlyOnUndefinedByte : Prop :=
  ∀ s : State,
    (decodeOpcode (Memory.read s.mem s.pc) = none → step s = .fault (.decodeFailure s.pc (Memory.read s.mem s.pc))) ∧
    ∀ (p : Word) (b : Byte), step s = .fault (.decodeFailure p b) → decodeOpcode (Memory.read s.mem s.pc) = none

/-- R183, which the spec derives: a step completes exactly when the byte at `pc` is defined, else it is a
DecodeFailure; it raises nothing else and refuses nothing. -/
def Obligations.EveryStepCompletesOrIsADecodeFailure : Prop :=
  ∀ s : State,
    (Safety.opcodeDefined s = true ∧ ∃ t, step s = .next t) ∨
    (Safety.opcodeDefined s = false ∧ step s = .fault (.decodeFailure s.pc (Memory.read s.mem s.pc)))

/-- R185: once decoded, an instruction completes, in every state and with every operand. -/
def Obligations.EveryInstructionCompletes : Prop :=
  ∀ (i : Instr) (s : State), ∃ t, exec i s = .next t

/-- R182: every pair R57 does not list, Indirect(None) among them, is an InvariantViolation of its evaluator, under
either setting of the switch (the spec's decision D21, log 12); the resolver has no arm for Indirect(None); no step from
any memory raises one. -/
def Obligations.UnlistedPairsAreInvariantViolations : Prop :=
  (∀ (sw : PtrHiWrap) (f : Form) (o : Operand) (s : State), f.mnemonic.hasMode f.mode = false →
    evaluate sw f o s = .fault (.invariantViolation s.pc (Memory.read s.mem s.pc) f.mnemonic f.mode)) ∧
  (∀ m : Mnemonic, m.hasMode (.indirect .none) = false) ∧
  (∀ (sw : PtrHiWrap) (o : Operand) (s : State), resolve sw (.indirect .none) o s = none) ∧
  ∀ (s : State) (p : Word) (b : Byte) (m : Mnemonic) (mode : AddrMode), step s ≠ .fault (.invariantViolation p b m mode)

/-- R162: `exec` is the evaluator of the mnemonic's family on the instruction's pair. -/
def Obligations.ExecIsTheFamilyEvaluator : Prop :=
  ∀ (i : Instr) (s : State), exec i s = evaluate ptrHiWrap i.form i.operand s

/-- R17: after any instruction `pc` has advanced by exactly its encoded length. -/
def Obligations.PcAdvancesByTheEncodedLength : Prop :=
  ∀ (i : Instr) (s : State), ∃ t, exec i s = .next t ∧ t.pc = wrap16 (s.pc.toNat + (encode i).length)

/-! ### Loads -/

/-- R90, the family rule, for all 18 load opcodes: the operand's byte goes to the mnemonic's target register, Z and N
come from it, `pc` advances by `1 + mode.length()`, nothing else changes but the counters. -/
def Obligations.EveryLoadFollowsTheFamilyRule : Prop :=
  ∀ (i : Instr) (s : State), familyOf i.form.mnemonic = .load →
    ∃ target len r, loadTarget i.form.mnemonic = some target ∧ i.form.mode.length = some len ∧
      readOperand ptrHiWrap i.form.mode i.operand s = some r ∧
      exec i s = .next (copiedTo target s r.value (1 + len) (loadCost i.form.mode r.pageCrossed))

/-- R91: the cost of every load, with the page crossing computed from the base and the index. -/
def Obligations.LoadsCostTheTable : Prop :=
  (∀ (op8 : Byte) (s : State), ∀ i ∈ [Instr.ldaImmediate op8, .ldxImmediate op8, .ldyImmediate op8],
    ∃ t, exec i s = .next t ∧ t.totalCycles = s.totalCycles + 2) ∧
  (∀ (op8 : Byte) (s : State), ∀ i ∈ [Instr.ldaZeroPage op8, .ldxZeroPage op8, .ldyZeroPage op8],
    ∃ t, exec i s = .next t ∧ t.totalCycles = s.totalCycles + 3) ∧
  (∀ (op8 : Byte) (s : State), ∀ i ∈ [Instr.ldaZeroPageX op8, .ldxZeroPageY op8, .ldyZeroPageX op8],
    ∃ t, exec i s = .next t ∧ t.totalCycles = s.totalCycles + 4) ∧
  (∀ (op16 : Word) (s : State), ∀ i ∈ [Instr.ldaAbsolute op16, .ldxAbsolute op16, .ldyAbsolute op16],
    ∃ t, exec i s = .next t ∧ t.totalCycles = s.totalCycles + 4) ∧
  (∀ (op16 : Word) (s : State), ∀ i ∈ [Instr.ldaAbsoluteX op16, .ldyAbsoluteX op16],
    ∃ t, exec i s = .next t ∧ t.totalCycles = s.totalCycles + if crosses op16 s.x then 5 else 4) ∧
  (∀ (op16 : Word) (s : State), ∀ i ∈ [Instr.ldaAbsoluteY op16, .ldxAbsoluteY op16],
    ∃ t, exec i s = .next t ∧ t.totalCycles = s.totalCycles + if crosses op16 s.y then 5 else 4) ∧
  (∀ (op8 : Byte) (s : State),
    ∃ t, exec (.ldaIndirectX op8) s = .next t ∧ t.totalCycles = s.totalCycles + 6) ∧
  ∀ (op8 : Byte) (s : State), ∃ t, exec (.ldaIndirectY op8) s = .next t ∧
    t.totalCycles = s.totalCycles + if crosses (Memory.readWordZP ptrHiWrap s.mem op8) s.y then 6 else 5

/-- LDA, the six forms without a pointer: result, flags, `pc`, cycles and frame in one equation each
(41_load.md section 3). -/
def Obligations.LdaDirectFormsLoadTheAccumulator : Prop :=
  ∀ (s : State) (op8 : Byte) (op16 : Word),
    exec (.ldaImmediate op8) s = .next (copiedTo .a s op8 2 2) ∧
    exec (.ldaZeroPage op8) s = .next (copiedTo .a s (Memory.read s.mem (zeroPageAddr op8 0)) 2 3) ∧
    exec (.ldaZeroPageX op8) s = .next (copiedTo .a s (Memory.read s.mem (zeroPageAddr op8 s.x)) 2 4) ∧
    exec (.ldaAbsolute op16) s = .next (copiedTo .a s (Memory.read s.mem op16) 3 4) ∧
    exec (.ldaAbsoluteX op16) s =
      .next (copiedTo .a s (Memory.read s.mem (indexedAddr op16 s.x)) 3 (if crosses op16 s.x then 5 else 4)) ∧
    exec (.ldaAbsoluteY op16) s =
      .next (copiedTo .a s (Memory.read s.mem (indexedAddr op16 s.y)) 3 (if crosses op16 s.y then 5 else 4))

/-- LDA through a zero-page pointer, with `PTR_HI_WRAP = zero_page`, the spec's decision D9 (log 4; 41_load.md
section 3). -/
def Obligations.LdaIndirectFormsLoadTheAccumulator : Prop :=
  ∀ (s : State) (op8 : Byte),
    exec (.ldaIndirectX op8) s =
      .next (copiedTo .a s (Memory.read s.mem (pointer s.mem (BitVec.ofNat 8 ((op8.toNat + s.x.toNat) % 256)))) 2 6) ∧
    exec (.ldaIndirectY op8) s =
      .next (copiedTo .a s (Memory.read s.mem (indexedAddr (pointer s.mem op8) s.y)) 2
        (if crosses (pointer s.mem op8) s.y then 6 else 5))

/-- LDX, its five forms, indexed by Y only (41_load.md section 4). -/
def Obligations.LdxFormsLoadX : Prop :=
  ∀ (s : State) (op8 : Byte) (op16 : Word),
    exec (.ldxImmediate op8) s = .next (copiedTo .x s op8 2 2) ∧
    exec (.ldxZeroPage op8) s = .next (copiedTo .x s (Memory.read s.mem (zeroPageAddr op8 0)) 2 3) ∧
    exec (.ldxZeroPageY op8) s = .next (copiedTo .x s (Memory.read s.mem (zeroPageAddr op8 s.y)) 2 4) ∧
    exec (.ldxAbsolute op16) s = .next (copiedTo .x s (Memory.read s.mem op16) 3 4) ∧
    exec (.ldxAbsoluteY op16) s =
      .next (copiedTo .x s (Memory.read s.mem (indexedAddr op16 s.y)) 3 (if crosses op16 s.y then 5 else 4))

/-- LDY, its five forms, indexed by X only (41_load.md section 5). -/
def Obligations.LdyFormsLoadY : Prop :=
  ∀ (s : State) (op8 : Byte) (op16 : Word),
    exec (.ldyImmediate op8) s = .next (copiedTo .y s op8 2 2) ∧
    exec (.ldyZeroPage op8) s = .next (copiedTo .y s (Memory.read s.mem (zeroPageAddr op8 0)) 2 3) ∧
    exec (.ldyZeroPageX op8) s = .next (copiedTo .y s (Memory.read s.mem (zeroPageAddr op8 s.x)) 2 4) ∧
    exec (.ldyAbsolute op16) s = .next (copiedTo .y s (Memory.read s.mem op16) 3 4) ∧
    exec (.ldyAbsoluteX op16) s =
      .next (copiedTo .y s (Memory.read s.mem (indexedAddr op16 s.x)) 3 (if crosses op16 s.x then 5 else 4))

/-! ### Stores -/

/-- R120, the family rule, for all 13 store opcodes: the source register's byte at the resolved address, every flag
and register kept, `pc` past the instruction; the only memory accesses after the opcode are the resolver's reads and
that write. -/
def Obligations.EveryStoreFollowsTheFamilyRule : Prop :=
  ∀ (i : Instr) (s : State), familyOf i.form.mnemonic = .store →
    ∃ source len r, storeSource i.form.mnemonic = some source ∧ i.form.mode.length = some len ∧
      resolve ptrHiWrap i.form.mode i.operand s = some r ∧
      exec i s = .next (stored s r.effective (s.getReg source) (1 + len) (storeCost i.form.mode)) ∧
      evaluateAccesses ptrHiWrap i.form i.operand s =
        (resolveReads ptrHiWrap i.form.mode i.operand s).map Access.read ++ [.write r.effective (s.getReg source)]

/-- R121: the cost of every store, crossed or not. -/
def Obligations.StoresCostTheTable : Prop :=
  (∀ (op8 : Byte) (s : State), ∀ i ∈ [Instr.staZeroPage op8, .stxZeroPage op8, .styZeroPage op8],
    ∃ t, exec i s = .next t ∧ t.totalCycles = s.totalCycles + 3) ∧
  (∀ (op8 : Byte) (s : State), ∀ i ∈ [Instr.staZeroPageX op8, .stxZeroPageY op8, .styZeroPageX op8],
    ∃ t, exec i s = .next t ∧ t.totalCycles = s.totalCycles + 4) ∧
  (∀ (op16 : Word) (s : State), ∀ i ∈ [Instr.staAbsolute op16, .stxAbsolute op16, .styAbsolute op16],
    ∃ t, exec i s = .next t ∧ t.totalCycles = s.totalCycles + 4) ∧
  (∀ (op16 : Word) (s : State), ∀ i ∈ [Instr.staAbsoluteX op16, .staAbsoluteY op16],
    ∃ t, exec i s = .next t ∧ t.totalCycles = s.totalCycles + 5) ∧
  ∀ (op8 : Byte) (s : State), ∀ i ∈ [Instr.staIndirectX op8, .staIndirectY op8],
    ∃ t, exec i s = .next t ∧ t.totalCycles = s.totalCycles + 6

/-- STA, the five forms without a pointer (42_store.md section 3). -/
def Obligations.StaDirectFormsStoreTheAccumulator : Prop :=
  ∀ (s : State) (op8 : Byte) (op16 : Word),
    exec (.staZeroPage op8) s = .next (stored s (zeroPageAddr op8 0) s.a 2 3) ∧
    exec (.staZeroPageX op8) s = .next (stored s (zeroPageAddr op8 s.x) s.a 2 4) ∧
    exec (.staAbsolute op16) s = .next (stored s op16 s.a 3 4) ∧
    exec (.staAbsoluteX op16) s = .next (stored s (indexedAddr op16 s.x) s.a 3 5) ∧
    exec (.staAbsoluteY op16) s = .next (stored s (indexedAddr op16 s.y) s.a 3 5)

/-- STA through a zero-page pointer, with `PTR_HI_WRAP = zero_page`, the spec's decision D9 (log 4; 42_store.md
section 3). -/
def Obligations.StaIndirectFormsStoreTheAccumulator : Prop :=
  ∀ (s : State) (op8 : Byte),
    exec (.staIndirectX op8) s =
      .next (stored s (pointer s.mem (BitVec.ofNat 8 ((op8.toNat + s.x.toNat) % 256))) s.a 2 6) ∧
    exec (.staIndirectY op8) s = .next (stored s (indexedAddr (pointer s.mem op8) s.y) s.a 2 6)

/-- STX, its three forms (42_store.md section 4). -/
def Obligations.StxFormsStoreX : Prop :=
  ∀ (s : State) (op8 : Byte) (op16 : Word),
    exec (.stxZeroPage op8) s = .next (stored s (zeroPageAddr op8 0) s.x 2 3) ∧
    exec (.stxZeroPageY op8) s = .next (stored s (zeroPageAddr op8 s.y) s.x 2 4) ∧
    exec (.stxAbsolute op16) s = .next (stored s op16 s.x 3 4)

/-- STY, its three forms (42_store.md section 5). -/
def Obligations.StyFormsStoreY : Prop :=
  ∀ (s : State) (op8 : Byte) (op16 : Word),
    exec (.styZeroPage op8) s = .next (stored s (zeroPageAddr op8 0) s.y 2 3) ∧
    exec (.styZeroPageX op8) s = .next (stored s (zeroPageAddr op8 s.x) s.y 2 4) ∧
    exec (.styAbsolute op16) s = .next (stored s op16 s.y 3 4)

/-- The frame of memory for every instruction: a store changes the byte at the address its operand resolves to, to
its source register's value, and no other; any other instruction changes no byte (R24, R31, R120). -/
def Obligations.OnlyStoresChangeMemoryAndOnlyOneByte : Prop :=
  ∀ (i : Instr) (s : State), ∃ t, exec i s = .next t ∧
    match storeSource i.form.mnemonic, resolve ptrHiWrap i.form.mode i.operand s with
    | some source, some r => ∀ addr : Word,
        Memory.read t.mem addr = if addr = r.effective then s.getReg source else Memory.read s.mem addr
    | _, _ => ∀ addr : Word, Memory.read t.mem addr = Memory.read s.mem addr

/-! ### Transfers and NOP -/

/-- R140, the family rule, for the six transfers: a copy, Z and N from it but for TXS, 2 cycles, 1 byte, no memory
access after the opcode fetch. -/
def Obligations.EveryTransferFollowsTheFamilyRule : Prop :=
  ∀ (i : Instr) (s : State), familyOf i.form.mnemonic = .transfer →
    ∃ row, transferRow i.form.mnemonic = some row ∧
      exec i s = .next (if i.form.mnemonic = .txs then { counted s 1 2 with s := s.x }
        else copiedTo row.dst s (s.getReg row.src) 1 2) ∧
      evaluateAccesses ptrHiWrap i.form i.operand s = []

/-- The six transfers, each with its source and destination (43_transfer.md section 2; the mapping is the spec's
general-knowledge passage G3, log 7). -/
def Obligations.TransfersCopyTheirRegisters : Prop :=
  ∀ s : State,
    exec .tax s = .next (copiedTo .x s s.a 1 2) ∧
    exec .tay s = .next (copiedTo .y s s.a 1 2) ∧
    exec .tsx s = .next (copiedTo .x s s.s 1 2) ∧
    exec .txa s = .next (copiedTo .a s s.x 1 2) ∧
    exec .txs s = .next { counted s 1 2 with s := s.x } ∧
    exec .tya s = .next (copiedTo .a s s.y 1 2)

/-- R150: NOP moves `pc` by 1 and costs 2 cycles; every register, flag and memory byte is unchanged and no operand
is read. Its byte is the spec's general-knowledge passage G1 (log 7). -/
def Obligations.NopOnlyAdvances : Prop :=
  encode .nop = [0xEA] ∧
  ∀ s : State, exec .nop s = .next (counted s 1 2) ∧
    evaluateAccesses ptrHiWrap Instr.nop.form Instr.nop.operand s = []

/-! ### Flags and registers -/

/-- R16: `SetZN(v)` writes Z and N, leaves the five other flags, and never leaves Z and N both set. -/
def Obligations.SetZNWritesZeroAndNegative : Prop :=
  ∀ (s : State) (v : Byte),
    s.setZN v = { s with flags := withZN s.flags v } ∧
    (v.toNat = 0 → (s.setZN v).flags.z = true ∧ (s.setZN v).flags.n = false) ∧
    (1 ≤ v.toNat → v.toNat ≤ 0x7F → (s.setZN v).flags.z = false ∧ (s.setZN v).flags.n = false) ∧
    (0x80 ≤ v.toNat → (s.setZN v).flags.z = false ∧ (s.setZN v).flags.n = true)

/-- R15: C, I, D, B and V are written by no instruction, by no fault and not by `reset()`; STA, STX, STY, TXS and NOP
write no flag; the others write Z and N by `SetZN`. No instruction reads a flag: run with any other flags `f` it does the
same to everything else, and leaves `f` alone or writes Z and N from the same byte `v`. -/
def Obligations.FlagsAreWrittenOnlyBySetZNAndNeverRead : Prop :=
  (∀ (i : Instr) (s : State) (f : Flags), ∃ t t',
    exec i s = .next t ∧ exec i { s with flags := f } = .next t' ∧ { t' with flags := t.flags } = t ∧
    if keepsFlags i.form.mnemonic then t.flags = s.flags ∧ t'.flags = f
    else ∃ v, t.flags = withZN s.flags v ∧ t'.flags = withZN f v) ∧
  (∀ (s : State) (f : Fault), step s = .fault f → (stateAfter s (step s)).flags = s.flags) ∧
  ∀ s : State, (hostReset s).flags = s.flags

/-- The access table R24, which the spec derives, for the registers and the counters: only the destination register
changes, and every completed instruction is counted once. -/
def Obligations.OnlyTheDestinationRegisterChanges : Prop :=
  ∀ (i : Instr) (s : State), ∃ t, exec i s = .next t ∧
    (∀ r : Reg, destination i.form.mnemonic ≠ some r → t.getReg r = s.getReg r) ∧
    t.instructionsExecuted = s.instructionsExecuted + 1

/-- R12: TXS alone writes `s` and TSX alone reads it: `reset()` leaves it, every other instruction leaves it and does
the same whatever it holds, so it forms no address. -/
def Obligations.StackPointerIsTouchedByTsxAndTxsAlone : Prop :=
  (∀ (i : Instr) (s : State) (v : Byte), i ≠ .tsx → i ≠ .txs →
    ∃ t, exec i s = .next t ∧ t.s = s.s ∧ exec i { s with s := v } = .next { t with s := v }) ∧
  (∀ s : State, ∃ t, exec .tsx s = .next t ∧ t.s = s.s ∧ t.x = s.s) ∧
  (∀ (s : State) (v : Byte), ∃ t, exec .txs s = .next t ∧ t.s = s.x ∧ exec .txs { s with s := v } = .next t) ∧
  ∀ s : State, (hostReset s).s = s.s

/-- No step reads the counters: with other counters it does the same and adds the same (R18, R170, R191). -/
def Obligations.NoStepReadsTheCounters : Prop :=
  ∀ (s : State) (c n : Nat),
    match step s with
    | .next t => ∃ d, t.totalCycles = s.totalCycles + d ∧
        step { s with totalCycles := c, instructionsExecuted := n } =
          .next { t with totalCycles := c + d, instructionsExecuted := n + 1 }
    | o => step { s with totalCycles := c, instructionsExecuted := n } = o

/-! ### Memory and addresses -/

/-- R31: a write is read back and changes no other cell. -/
def Obligations.WriteIsReadBackAndChangesNoOtherCell : Prop :=
  ∀ (m : Memory) (addr other : Word) (v : Byte),
    Memory.read (Memory.write m addr v) addr = v ∧
    (other ≠ addr → Memory.read (Memory.write m addr v) other = Memory.read m other)

/-- R33: a word is little-endian, its high byte at the next address mod 65536. -/
def Obligations.WordsAreLittleEndian : Prop :=
  ∀ (m : Memory) (addr : Word), (Memory.readWord m addr).toNat =
    256 * (Memory.read m (wrap16 (addr.toNat + 1))).toNat + (Memory.read m addr).toNat

/-- R34: the two cells of a zero-page pointer under each setting of the switch, which agree but at `0xFF`. -/
def Obligations.ZeroPagePointersUnderBothSettings : Prop :=
  ∀ (m : Memory) (p : Byte),
    (Memory.readWordZP .zeroPage m p).toNat =
      256 * (Memory.read m (BitVec.ofNat 16 ((p.toNat + 1) % 256))).toNat +
        (Memory.read m (BitVec.ofNat 16 p.toNat)).toNat ∧
    (Memory.readWordZP .linear m p).toNat =
      256 * (Memory.read m (BitVec.ofNat 16 (p.toNat + 1))).toNat + (Memory.read m (BitVec.ofNat 16 p.toNat)).toNat ∧
    (p.toNat ≠ 0xFF → Memory.readWordZP .zeroPage m p = Memory.readWordZP .linear m p)

/-- Canonical memories are determined by what they read as (log 2): equal memories are equal data. -/
def Obligations.CanonicalMemoriesThatReadAlikeAreEqual : Prop :=
  ∀ m m' : Memory, Memory.wf m = true → Memory.wf m' = true →
    (∀ addr : Word, Memory.read m addr = Memory.read m' addr) → m = m'

/-- R75: the operand byte plus the index, mod 256: the address stays in page 0 and is never crossed. -/
def Obligations.ZeroPageAddressesStayInPageZero : Prop :=
  ∀ (s : State) (i : Instr) (idx : IndexedBy) (sw : PtrHiWrap),
    fetchDecode s = .instr i → i.form.mode = .zeroPage idx →
    let op8 := Memory.read s.mem (wrap16 (s.pc.toNat + 1))
    resolve sw i.form.mode i.operand s = some ⟨zeroPageAddr op8 (idxval s idx), false⟩ ∧
    (zeroPageAddr op8 (idxval s idx)).toNat < 256

/-- R76: the little-endian operand word plus the index, mod 65536; crossed when the page changes. -/
def Obligations.AbsoluteAddressesWrapAndCrossPages : Prop :=
  ∀ (s : State) (i : Instr) (idx : IndexedBy) (sw : PtrHiWrap),
    fetchDecode s = .instr i → i.form.mode = .absolute idx →
    let base := Memory.readWord s.mem (wrap16 (s.pc.toNat + 1))
    let effective := indexedAddr base (idxval s idx)
    ∃ crossed, resolve sw i.form.mode i.operand s = some ⟨effective, crossed⟩ ∧
      (crossed = true ↔ (base &&& 0xFF00#16) ≠ (effective &&& 0xFF00#16)) ∧
      (idx = .none → effective = base ∧ crossed = false)

/-- R77: X is added to the pointer's address mod 256 and nothing after the indirection; never crossed. Under either
setting of the switch. -/
def Obligations.IndirectXIndexesBeforeTheIndirection : Prop :=
  ∀ (s : State) (i : Instr) (sw : PtrHiWrap), fetchDecode s = .instr i → i.form.mode = .indirect .x →
    let op8 := Memory.read s.mem (wrap16 (s.pc.toNat + 1))
    resolve sw i.form.mode i.operand s =
      some ⟨Memory.readWordZP sw s.mem (BitVec.ofNat 8 ((op8.toNat + s.x.toNat) % 256)), false⟩

/-- R78: Y is added to the pointer's word mod 65536; crossed when the high byte changes. X is not read. Under either
setting of the switch. -/
def Obligations.IndirectYIndexesAfterTheIndirection : Prop :=
  ∀ (s : State) (i : Instr) (sw : PtrHiWrap), fetchDecode s = .instr i → i.form.mode = .indirect .y →
    let op8 := Memory.read s.mem (wrap16 (s.pc.toNat + 1))
    let base := Memory.readWordZP sw s.mem op8
    resolve sw i.form.mode i.operand s = some ⟨indexedAddr base s.y, crosses base s.y⟩ ∧
    ∀ x : Byte, resolve sw i.form.mode i.operand { s with x := x } = resolve sw i.form.mode i.operand s

/-- R79 in part: a page crossing is reported by Absolute(X), Absolute(Y) and Indirect(Y) alone; for Absolute, when the
low byte carries (R76, marked derived). -/
def Obligations.PageCrossedInThreeModesOnly : Prop :=
  (∀ (sw : PtrHiWrap) (mode : AddrMode) (o : Operand) (s : State) (r : Resolved),
    resolve sw mode o s = some r → r.pageCrossed = true →
    mode = .absolute .x ∨ mode = .absolute .y ∨ mode = .indirect .y) ∧
  ∀ (sw : PtrHiWrap) (idx : IndexedBy) (base : Word) (s : State) (r : Resolved),
    resolve sw (.absolute idx) (.word base) s = some r →
    (r.pageCrossed = true ↔ 255 < base.toNat % 256 + (idxval s idx).toNat)

/-- The accesses of a completed step (R37, R40): the opcode byte first, then reads, then at most one write, which is
what memory changes by. The order of the reads is the spec's decision D10 (log 8). -/
def Obligations.AccessesAreReadsThenAtMostOneWrite : Prop :=
  ∀ s t : State, step s = .next t →
    ∃ reads : List Word,
      (stepAccesses s = (s.pc :: reads).map Access.read ∧ t.mem = s.mem) ∨
      ∃ addr v, stepAccesses s = (s.pc :: reads).map Access.read ++ [.write addr v] ∧ t.mem = Memory.write s.mem addr v

/-- A step depends on no byte of memory but those it reads: two states that differ only in other bytes take steps
with the same accesses, the same effect on registers, flags, `pc` and counters, and the same writes, or stop the same way
(R37, R161, R184). The list of accesses is the model's `stepAccesses`, in the order of the spec's decision D10 (log 8). -/
def Obligations.StepDependsOnlyOnTheBytesItReads : Prop :=
  ∀ (s : State) (m : Memory),
    (∀ addr : Word, Access.read addr ∈ stepAccesses s → Memory.read m addr = Memory.read s.mem addr) →
    stepAccesses (withMemory s m) = stepAccesses s ∧
    match step s with
    | .next t => step (withMemory s m) = .next (withMemory t (applyWrites (stepAccesses s) m))
    | o => step (withMemory s m) = o

/-- A stored byte is fetched by the next step with no further action: where the store's address is the `pc` after it, the
next fetch reads the stored byte, and where that byte is a whole instruction the next step runs it (R43, which the spec
derives). -/
def Obligations.StoredByteIsFetchedNext : Prop :=
  ∀ (i : Instr) (s t : State) (source : Reg) (r : Resolved),
    storeSource i.form.mnemonic = some source → resolve ptrHiWrap i.form.mode i.operand s = some r →
    exec i s = .next t → t.pc = r.effective →
    (fetchBytes t).head? = some (s.getReg source) ∧
    ∀ j : Instr, encode j = [s.getReg source] → step t = exec j t

/-! ### Reset and the host -/

/-- R200, R202: `reset()` sets `pc` to `0x1000` and changes nothing else. -/
def Obligations.ResetCommandSetsPcOnly : Prop :=
  ∀ s : State, hostCommand .reset s = ({ s with pc := 0x1000 }, .done)

/-- The state after reset: `pc` at `0x1000` and counters 0 for every launch (R200, R201); registers, flags and memory
keep what construction gave them. `State.reset` is that for the values the MODEL names: registers zero, flags clear
(log 1), memory empty (log 2). -/
def Obligations.ResetStateIsConstructionThenReset : Prop :=
  (∀ (p : ProcessorState) (m : Memory), hostReset (State.construct p m) =
    ⟨p.a, p.x, p.y, p.s, 0x1000, p.flags, m, 0, 0⟩) ∧
  State.reset = hostReset (State.construct ProcessorState.initial [])

/-- R165 with the spec's decision D12 (log 10): `step(m + n)` is `step(m)` and, if that completed, `step(n)`; if all
complete, exactly `n` instructions are counted. -/
def Obligations.StepCommandIsRepeatedSteps : Prop :=
  (∀ (m n : Nat) (s : State),
    stepN (m + n) s = match stepN m s with
      | (t, .completed) => stepN n t
      | stopped => stopped) ∧
  ∀ (n : Nat) (s : State), (stepN n s).2 = .completed →
    (stepN n s).1.instructionsExecuted = s.instructionsExecuted + n

/-- A faulted step changes nothing, the host is told, and stepping again faults again (R164, R184; R176 and D12, log
10). -/
def Obligations.FaultChangesNothingAndRecurs : Prop :=
  ∀ (s : State) (f : Fault) (m n : Nat), step s = .fault f →
    hostCommand (.step (m + 1)) s = (s, .report (.faulted f)) ∧
    hostCommand (.step (n + 1)) (hostCommand (.step (m + 1)) s).1 = (s, .report (.faulted f))

/-- Three NOPs (R150, R165, the spec's test S9): `pc` advances by 3 and `total_cycles` by 6. -/
def Obligations.ThreeNopsAdvanceByThree : Prop :=
  ∀ s : State,
    Memory.read s.mem s.pc = 0xEA → Memory.read s.mem (wrap16 (s.pc.toNat + 1)) = 0xEA →
    Memory.read s.mem (wrap16 (s.pc.toNat + 2)) = 0xEA →
    hostCommand (.step 3) s =
      ({ s with pc := wrap16 (s.pc.toNat + 3), totalCycles := s.totalCycles + 6,
                instructionsExecuted := s.instructionsExecuted + 3 }, .report .completed)

/-- R167: `load` writes `bytes[i]` at `(address + i) mod 65536`, the last write of an address winning, and changes
no other cell and nothing but memory. R169: `write_byte` writes its one byte at its address and changes nothing else. -/
def Obligations.LoadCommandWritesItsRangeOnly : Prop :=
  ∀ (s : State) (addr : Word) (bytes : List Byte),
    let t := (hostCommand (.load addr bytes) s).1
    t = { s with mem := t.mem } ∧
    (∀ (k : Nat) (h : k < bytes.length),
      (∀ j, k < j → j < bytes.length → wrap16 (addr.toNat + j) ≠ wrap16 (addr.toNat + k)) →
      Memory.read t.mem (wrap16 (addr.toNat + k)) = bytes[k]) ∧
    (∀ other : Word, (∀ k, k < bytes.length → other ≠ wrap16 (addr.toNat + k)) →
      Memory.read t.mem other = Memory.read s.mem other) ∧
    (bytes = [] → t = s) ∧
    (hostCommand (.load addr bytes) s).2 = .done ∧
    ∀ v : Byte, hostCommand (.writeByte addr v) s = ({ s with mem := Memory.write s.mem addr v }, .done)

/-- R168, R169 for `read_byte` and `read_word` (`write_byte` stands in LoadCommandWritesItsRangeOnly), R170 (the
counters' read is the spec's decision D13): what the host reads, and that reading changes nothing. -/
def Obligations.HostReadsReportAndChangeNothing : Prop :=
  ∀ (s : State) (addr : Word),
    hostCommand (.readByte addr) s = (s, .byte (Memory.read s.mem addr)) ∧
    hostCommand (.readWord addr) s = (s, .word (BitVec.ofNat 16
      (256 * (Memory.read s.mem (wrap16 (addr.toNat + 1))).toNat + (Memory.read s.mem addr).toNat))) ∧
    hostCommand .inspectState s = (s, .snapshot ⟨s.a, s.x, s.y, s.s, s.pc, s.flags⟩) ∧
    hostCommand .statistics s = (s, .counters s.totalCycles s.instructionsExecuted)

/-! ### Invariants -/

/-- A completed step costs 2 to 6 cycles and counts one instruction (R208, which the spec derives). -/
def Obligations.EveryCompletedStepCostsTwoToSix : Prop :=
  ∀ s t : State, step s = .next t →
    s.totalCycles + 2 ≤ t.totalCycles ∧ t.totalCycles ≤ s.totalCycles + 6 ∧
    t.instructionsExecuted = s.instructionsExecuted + 1

/-- Every step keeps the invariant: memory canonical (log 2), Z and N never both set (R16), the counters within 2 to 6
cycles an instruction (R208). -/
def Obligations.StepKeepsTheInvariant : Prop :=
  ∀ s t : State, Safety.Inv s → step s = .next t → Safety.Inv t

/-- The invariant holds at reset, with the values the model names (log 1, log 2). -/
def Obligations.ResetHasTheInvariant : Prop := Safety.Inv State.reset

/-- Every host command keeps the invariant: `step(n)` for every `n`, `load` of any bytes anywhere, and the rest. -/
def Obligations.HostCommandsKeepTheInvariant : Prop :=
  ∀ (c : HostCommand) (s : State), Safety.Inv s → Safety.Inv (hostCommand c s).1

/-- A run is safe exactly when the opcode byte of each of its states is defined: `step(n)` then completes
(70_reset_and_hazards.md R204 item 5; R165, R183). -/
def Obligations.SafeRunsAreTheCompletedStepCommands : Prop :=
  ∀ (n : Nat) (s : State),
    (Safety.safeRun n s = true ↔ (stepN n s).2 = .completed) ∧
    (Safety.safeRun n s = true ↔ ∀ k, k < n → Safety.opcodeDefined (stepN k s).1 = true)

end
end

