-- ==== Sys2Proof/Laws/Encoding.lean ====
section
/-! SUPPORT. The small lemmas of the word helpers and of the decoder's parts. -/

namespace Sys2Proof

theorem joinBytes_toNat (hi lo : Byte) : (joinBytes hi lo).toNat = 256 * hi.toNat + lo.toNat := by
  simp only [joinBytes, BitVec.toNat_ofNat]
  omega

theorem lo8_toNat (w : Word) : (lo8 w).toNat = w.toNat % 256 := by simp [lo8]

theorem hi8_toNat (w : Word) : (hi8 w).toNat = w.toNat / 256 := by
  simp only [hi8, BitVec.extractLsb'_toNat, Nat.shiftRight_eq_div_pow]
  omega

@[simp] theorem joinBytes_hi8_lo8 (w : Word) : joinBytes (hi8 w) (lo8 w) = w := by
  apply BitVec.eq_of_toNat_eq
  rw [joinBytes_toNat, lo8_toNat, hi8_toNat]
  omega

@[simp] theorem lo8_joinBytes (hi lo : Byte) : lo8 (joinBytes hi lo) = lo := by
  apply BitVec.eq_of_toNat_eq
  rw [lo8_toNat, joinBytes_toNat]
  omega

@[simp] theorem hi8_joinBytes (hi lo : Byte) : hi8 (joinBytes hi lo) = hi := by
  apply BitVec.eq_of_toNat_eq
  rw [hi8_toNat, joinBytes_toNat]
  omega

/-- Three bytes are enough for any instruction the table names (R50). -/
theorem takeOperand_of_two (n : Nat) (h : n ≤ 2) (b₁ b₂ : Byte) :
    ∃ o rest, takeOperand n [b₁, b₂] = some (o, rest) := by
  match n, h with
  | 0, _ => exact ⟨_, _, rfl⟩
  | 1, _ => exact ⟨_, _, rfl⟩
  | 2, _ => exact ⟨_, _, rfl⟩

end Sys2Proof
end

