-- ==== Sys2Proof/Laws/Operands.lean ====
section
/-! SUPPORT. One equation per addressing mode of the resolver, and what the two wrappers can do. -/

namespace Sys2Proof.Machine

variable (sw : PtrHiWrap) (s : State) (op8 : Byte) (op16 : Word) (idx : IndexedBy)

@[simp] theorem resolve_immediate :
    resolve sw .immediate (.byte op8) s = some ⟨s.pc + 1, false⟩ := rfl
@[simp] theorem resolve_zeroPage :
    resolve sw (.zeroPage idx) (.byte op8) s = some ⟨zext16 (op8 + idxval s idx), false⟩ := rfl
@[simp] theorem resolve_absolute :
    resolve sw (.absolute idx) (.word op16) s =
      some ⟨op16 + zext16 (idxval s idx), page op16 != page (op16 + zext16 (idxval s idx))⟩ := rfl
@[simp] theorem resolve_indirectX :
    resolve sw (.indirect .x) (.byte op8) s = some ⟨Memory.readWordZP sw s.mem (op8 + s.x), false⟩ := rfl
@[simp] theorem resolve_indirectY :
    resolve sw (.indirect .y) (.byte op8) s =
      some ⟨Memory.readWordZP sw s.mem op8 + zext16 s.y,
        hi8 (Memory.readWordZP sw s.mem op8) != hi8 (Memory.readWordZP sw s.mem op8 + zext16 s.y)⟩ := rfl

/-- A written operand changes memory at the resolved address and nothing else. -/
theorem writeOperand_eq_some {mode : AddrMode} {o : Operand} {v : Byte} {t : State}
    (h : writeOperand sw mode o s v = some t) :
    ∃ r, resolve sw mode o s = some r ∧ t = s.writeByte r.effective v := by
  simp only [writeOperand, Option.map_eq_some_iff] at h
  obtain ⟨r, hr, rfl⟩ := h
  exact ⟨r, hr, rfl⟩

/-- A read operand is the byte at the resolved address, but for Immediate, where it is the operand byte. -/
theorem readOperand_eq_some {mode : AddrMode} {o : Operand} {r : ReadResult}
    (h : readOperand sw mode o s = some r) :
    (∃ b, mode = .immediate ∧ o = .byte b ∧ r = ⟨b, false⟩) ∨
    ∃ e, resolve sw mode o s = some e ∧ r = ⟨Memory.read s.mem e.effective, e.pageCrossed⟩ := by
  unfold readOperand at h
  split at h
  · exact .inl ⟨_, rfl, rfl, (Option.some.inj h).symm⟩
  · obtain ⟨e, he, rfl⟩ := Option.map_eq_some_iff.1 h
    exact .inr ⟨e, he, rfl⟩

end Sys2Proof.Machine
end

