-- ==== Sys2Proof/Laws/Exec.lean ====
section
/-! SUPPORT. What each family's evaluator can do, and from it what one instruction and one step can do: the inversion
lemmas that proofs cite in place of unfolding the meanings. -/

namespace Sys2Proof.Machine

theorem complete_eq_next {f : Form} {s t : State} {r : Option EvaluationResult} (h : complete f s r = .next t) :
    ∃ e, r = some e ∧ t = commit e := by
  cases r with
  | none => simp [complete, raiseFault] at h
  | some e => exact ⟨e, rfl, by simpa [complete, eq_comm] using h⟩

theorem loadCycles_bounds {mode : AddrMode} {crossed : Bool} {c : Nat} (h : loadCycles mode crossed = some c) :
    2 ≤ c ∧ c ≤ 6 := by
  unfold loadCycles at h
  split at h <;> cases crossed <;> simp at h <;> omega

theorem storeCycles_bounds {mode : AddrMode} {c : Nat} (h : storeCycles mode = some c) : 2 ≤ c ∧ c ≤ 6 := by
  unfold storeCycles at h
  split at h <;> simp at h <;> omega

/-- A load's result: the operand's byte in the target register, Z and N from it. -/
theorem evaluateLoad_eq_some {sw : PtrHiWrap} {f : Form} {o : Operand} {s : State} {e : EvaluationResult}
    (h : evaluateLoad sw f o s = some e) :
    ∃ target len r c, loadTarget f.mnemonic = some target ∧ f.mode.length = some len ∧
      readOperand sw f.mode o s = some r ∧ loadCycles f.mode r.pageCrossed = some c ∧
      e = ⟨((s.setReg target r.value).setZN r.value).advance (1 + len), c, 1 + len⟩ := by
  unfold evaluateLoad at h
  split at h
  · split at h
    · rename_i target len r ht hl hr
      simp only [Option.map_eq_some_iff] at h
      obtain ⟨c, hc, rfl⟩ := h
      exact ⟨target, len, r, c, ht, hl, hr, hc, rfl⟩
    · cases h
  · cases h

/-- A store's result: the source register's byte at the resolved address. -/
theorem evaluateStore_eq_some {sw : PtrHiWrap} {f : Form} {o : Operand} {s : State} {e : EvaluationResult}
    (h : evaluateStore sw f o s = some e) :
    ∃ source len r c, storeSource f.mnemonic = some source ∧ f.mode.length = some len ∧
      resolve sw f.mode o s = some r ∧ storeCycles f.mode = some c ∧
      e = ⟨(s.writeByte r.effective (s.getReg source)).advance (1 + len), c, 1 + len⟩ := by
  unfold evaluateStore at h
  split at h
  · split at h
    · rename_i source len c hs hl hc
      simp only [Option.map_eq_some_iff] at h
      obtain ⟨t, ht, rfl⟩ := h
      obtain ⟨r, hr, rfl⟩ := writeOperand_eq_some sw s ht
      exact ⟨source, len, r, c, hs, hl, hr, hc, rfl⟩
    · cases h
  · cases h

/-- A transfer's result: a copy, with Z and N from it where the row says so. -/
theorem evaluateTransfer_eq_some {f : Form} {s : State} {e : EvaluationResult} (h : evaluateTransfer f s = some e) :
    ∃ row, transferRow f.mnemonic = some row ∧
      e = ⟨(if row.writesZN then (s.setReg row.dst (s.getReg row.src)).setZN (s.getReg row.src)
            else s.setReg row.dst (s.getReg row.src)).advance 1, 2, 1⟩ := by
  unfold evaluateTransfer at h
  split at h
  · simp only [Option.map_eq_some_iff] at h
    obtain ⟨row, hrow, rfl⟩ := h
    exact ⟨row, hrow, rfl⟩
  · cases h

/-- NOP's result. -/
theorem evaluateNop_eq_some {f : Form} {s : State} {e : EvaluationResult} (h : evaluateNop f s = some e) :
    f.mnemonic = .nop ∧ e = ⟨s.advance 1, 2, 1⟩ := by
  unfold evaluateNop at h
  split at h
  · rename_i hs
    simp only [Bool.and_eq_true, beq_iff_eq] at hs
    exact ⟨hs.2, by simpa [eq_comm] using h⟩
  · cases h

/-- The four things an instruction can do to the state before `pc` moves and the counters grow. -/
inductive Effect (s : State) : State → Prop where
  | loads (target : Reg) (v : Byte) : Effect s ((s.setReg target v).setZN v)
  | stores (addr : Word) (source : Reg) : Effect s (s.writeByte addr (s.getReg source))
  | copies (source target : Reg) : Effect s (s.setReg target (s.getReg source))
  | nothing : Effect s s

/-- Everything an evaluator's commit can be: one of the four effects, a move of `pc`, 2 to 6 cycles. -/
theorem evaluate_eq_next {sw : PtrHiWrap} {f : Form} {o : Operand} {s t : State} (h : evaluate sw f o s = .next t) :
    ∃ u len c, Effect s u ∧ 2 ≤ c ∧ c ≤ 6 ∧ t = commit ⟨u.advance len, c, len⟩ := by
  unfold evaluate at h
  split at h <;> obtain ⟨e, he, rfl⟩ := complete_eq_next h
  · obtain ⟨target, len, r, c, -, -, -, hc, rfl⟩ := evaluateLoad_eq_some he
    exact ⟨_, _, c, .loads target r.value, (loadCycles_bounds hc).1, (loadCycles_bounds hc).2, rfl⟩
  · obtain ⟨source, len, r, c, -, -, -, hc, rfl⟩ := evaluateStore_eq_some he
    exact ⟨_, _, c, .stores r.effective source, (storeCycles_bounds hc).1, (storeCycles_bounds hc).2, rfl⟩
  · obtain ⟨row, -, rfl⟩ := evaluateTransfer_eq_some he
    cases hz : row.writesZN
    · exact ⟨_, 1, 2, .copies row.src row.dst, by omega, by omega, by simp⟩
    · exact ⟨_, 1, 2, .loads row.dst (s.getReg row.src), by omega, by omega, by simp⟩
  · obtain ⟨-, rfl⟩ := evaluateNop_eq_some he
    exact ⟨s, 1, 2, .nothing, by omega, by omega, rfl⟩

/-- A step that completes ran an instruction that was fetched. -/
theorem step_eq_next {s t : State} (h : step s = .next t) : ∃ i, fetchDecode s = .instr i ∧ exec i s = .next t := by
  unfold step at h
  split at h
  · rename_i i hi
    exact ⟨i, hi, h⟩
  · simp [raiseFault] at h

end Sys2Proof.Machine
end

