-- ==== Sys2Proof/Laws/Memory.lean ====
section
/-! SUPPORT. The laws of memory: what an update reads as, and that every memory operation keeps the canonical form. -/

namespace Sys2Proof.Machine

theorem Memory.lookup_update_same (m : Memory) (addr : Nat) (v : Byte) :
    Memory.lookup (Memory.update m addr v) addr = v := by
  induction m with
  | nil => by_cases h : v = unlistedByte <;> simp [Memory.update, Memory.lookup, h]
  | cons head rest ih =>
    obtain ⟨k, w⟩ := head
    simp only [Memory.update]
    split_ifs with hlt hv heq hv
    · simpa [Memory.lookup, show k ≠ addr by omega] using ih
    · simp [Memory.lookup]
    · exact ih
    · simp [Memory.lookup]
    · simpa [Memory.lookup, show k ≠ addr by omega] using ih

theorem Memory.lookup_update_other (m : Memory) (addr other : Nat) (v : Byte) (hne : other ≠ addr) :
    Memory.lookup (Memory.update m addr v) other = Memory.lookup m other := by
  induction m with
  | nil => by_cases h : v = unlistedByte <;> simp [Memory.update, Memory.lookup, h, hne.symm]
  | cons head rest ih =>
    obtain ⟨k, w⟩ := head
    simp only [Memory.update]
    split_ifs with hlt hv heq hv
    · simp only [Memory.lookup, ih]
    · simp [Memory.lookup, hne.symm]
    · subst heq; simpa [Memory.lookup, hne.symm] using ih
    · subst heq; simp [Memory.lookup, hne.symm]
    · simp only [Memory.lookup, ih]

/-- A canonical memory is canonical from any lower address. -/
theorem Memory.wfFrom_mono {lo lo' : Nat} {m : Memory} (hle : lo' ≤ lo) (h : Memory.wfFrom lo m = true) :
    Memory.wfFrom lo' m = true := by
  cases m with
  | nil => rfl
  | cons head rest =>
    obtain ⟨k, w⟩ := head
    simp only [Memory.wfFrom, Bool.and_eq_true, decide_eq_true_eq] at h ⊢
    exact ⟨⟨⟨by omega, h.1.1.2⟩, h.1.2⟩, h.2⟩

/-- Below a canonical memory's lowest address there is nothing to remove. -/
theorem Memory.update_unlisted_below {lo : Nat} {m : Memory} (addr : Nat) (hlt : addr < lo)
    (h : Memory.wfFrom lo m = true) : Memory.update m addr unlistedByte = m := by
  induction m generalizing lo with
  | nil => simp [Memory.update]
  | cons head rest ih =>
    obtain ⟨k, w⟩ := head
    simp only [Memory.wfFrom, Bool.and_eq_true, decide_eq_true_eq] at h
    have hk : addr < k := by omega
    simp [Memory.update, hk, ih (lo := k + 1) (by omega) h.2]

theorem Memory.wfFrom_update {lo : Nat} {m : Memory} (addr : Nat) (v : Byte) (hlo : lo ≤ addr)
    (haddr : addr < Config.memorySize) (h : Memory.wfFrom lo m = true) :
    Memory.wfFrom lo (Memory.update m addr v) = true := by
  induction m generalizing lo with
  | nil =>
    by_cases hv : v = unlistedByte
    · simp [Memory.update, hv, Memory.wfFrom]
    · simp [Memory.update, hv, Memory.wfFrom, hlo, haddr]
  | cons head rest ih =>
    obtain ⟨k, w⟩ := head
    simp only [Memory.wfFrom, Bool.and_eq_true, decide_eq_true_eq] at h
    obtain ⟨⟨⟨h1, h2⟩, h3⟩, h4⟩ := h
    simp only [Memory.update]
    split_ifs with hlt hv heq hv
    · subst hv
      rw [Memory.update_unlisted_below addr (by omega) h4]
      simp [Memory.wfFrom, h1, h2, h3, h4]
    · simp [Memory.wfFrom, hlo, haddr, hv, h2, h3, h4, Nat.succ_le_of_lt hlt]
    · subst hv heq
      rw [Memory.update_unlisted_below addr (Nat.lt_succ_self _) h4]
      exact Memory.wfFrom_mono (by omega) h4
    · subst heq
      simp [Memory.wfFrom, hlo, haddr, hv, h4]
    · simp [Memory.wfFrom, h1, h2, h3, ih (lo := k + 1) (by omega) h4]

theorem Memory.wf_write {m : Memory} (addr : Word) (v : Byte) (h : Memory.wf m = true) :
    Memory.wf (Memory.write m addr v) = true :=
  Memory.wfFrom_update addr.toNat v (Nat.zero_le _) addr.isLt h

theorem Memory.wf_writeBytes {m : Memory} (addr : Word) (bytes : List Byte) (h : Memory.wf m = true) :
    Memory.wf (Memory.writeBytes m addr bytes) = true := by
  induction bytes generalizing m addr with
  | nil => exact h
  | cons b bs ih => exact ih (addr + 1) (Memory.wf_write addr b h)

theorem Memory.wf_reset : Memory.wf State.reset.mem = true := rfl

end Sys2Proof.Machine
end

