-- ==== Sys2Proof/Laws/PerInstr.lean ====
section
/-! SUPPORT. Statements about every instruction as data, one lemma per constructor. -/

/-- The encoding of an instruction has the length its mode gives it: 1, 2 or 3 bytes (30_encoding.md R50, R57). -/
def Sys2Proof.Laws.EncodedLength.Statement (i : Sys2Proof.Instr) : Prop :=
  (Sys2Proof.encode i).length = i.length ∧ 1 ≤ i.length ∧ i.length ≤ 3

/-- The pair of an instruction is one the tables list, and its operand is the mode's (30_encoding.md R53, R57). -/
def Sys2Proof.Laws.Supported.Statement (i : Sys2Proof.Instr) : Prop :=
  i.wellFormed = true ∧ i.form.supported = true

namespace Sys2Proof.Laws

theorem EncodedLength.ldaImmediate (op8 : Byte) : EncodedLength.Statement (.ldaImmediate op8) := ⟨rfl, Nat.le_of_ble_eq_true rfl, Nat.le_of_ble_eq_true rfl⟩
theorem EncodedLength.ldaZeroPage (op8 : Byte) : EncodedLength.Statement (.ldaZeroPage op8) := ⟨rfl, Nat.le_of_ble_eq_true rfl, Nat.le_of_ble_eq_true rfl⟩
theorem EncodedLength.ldaZeroPageX (op8 : Byte) : EncodedLength.Statement (.ldaZeroPageX op8) := ⟨rfl, Nat.le_of_ble_eq_true rfl, Nat.le_of_ble_eq_true rfl⟩
theorem EncodedLength.ldaAbsolute (op16 : Word) : EncodedLength.Statement (.ldaAbsolute op16) := ⟨rfl, Nat.le_of_ble_eq_true rfl, Nat.le_of_ble_eq_true rfl⟩
theorem EncodedLength.ldaAbsoluteX (op16 : Word) : EncodedLength.Statement (.ldaAbsoluteX op16) := ⟨rfl, Nat.le_of_ble_eq_true rfl, Nat.le_of_ble_eq_true rfl⟩
theorem EncodedLength.ldaAbsoluteY (op16 : Word) : EncodedLength.Statement (.ldaAbsoluteY op16) := ⟨rfl, Nat.le_of_ble_eq_true rfl, Nat.le_of_ble_eq_true rfl⟩
theorem EncodedLength.ldaIndirectX (op8 : Byte) : EncodedLength.Statement (.ldaIndirectX op8) := ⟨rfl, Nat.le_of_ble_eq_true rfl, Nat.le_of_ble_eq_true rfl⟩
theorem EncodedLength.ldaIndirectY (op8 : Byte) : EncodedLength.Statement (.ldaIndirectY op8) := ⟨rfl, Nat.le_of_ble_eq_true rfl, Nat.le_of_ble_eq_true rfl⟩
theorem EncodedLength.ldxImmediate (op8 : Byte) : EncodedLength.Statement (.ldxImmediate op8) := ⟨rfl, Nat.le_of_ble_eq_true rfl, Nat.le_of_ble_eq_true rfl⟩
theorem EncodedLength.ldxZeroPage (op8 : Byte) : EncodedLength.Statement (.ldxZeroPage op8) := ⟨rfl, Nat.le_of_ble_eq_true rfl, Nat.le_of_ble_eq_true rfl⟩
theorem EncodedLength.ldxZeroPageY (op8 : Byte) : EncodedLength.Statement (.ldxZeroPageY op8) := ⟨rfl, Nat.le_of_ble_eq_true rfl, Nat.le_of_ble_eq_true rfl⟩
theorem EncodedLength.ldxAbsolute (op16 : Word) : EncodedLength.Statement (.ldxAbsolute op16) := ⟨rfl, Nat.le_of_ble_eq_true rfl, Nat.le_of_ble_eq_true rfl⟩
theorem EncodedLength.ldxAbsoluteY (op16 : Word) : EncodedLength.Statement (.ldxAbsoluteY op16) := ⟨rfl, Nat.le_of_ble_eq_true rfl, Nat.le_of_ble_eq_true rfl⟩
theorem EncodedLength.ldyImmediate (op8 : Byte) : EncodedLength.Statement (.ldyImmediate op8) := ⟨rfl, Nat.le_of_ble_eq_true rfl, Nat.le_of_ble_eq_true rfl⟩
theorem EncodedLength.ldyZeroPage (op8 : Byte) : EncodedLength.Statement (.ldyZeroPage op8) := ⟨rfl, Nat.le_of_ble_eq_true rfl, Nat.le_of_ble_eq_true rfl⟩
theorem EncodedLength.ldyZeroPageX (op8 : Byte) : EncodedLength.Statement (.ldyZeroPageX op8) := ⟨rfl, Nat.le_of_ble_eq_true rfl, Nat.le_of_ble_eq_true rfl⟩
theorem EncodedLength.ldyAbsolute (op16 : Word) : EncodedLength.Statement (.ldyAbsolute op16) := ⟨rfl, Nat.le_of_ble_eq_true rfl, Nat.le_of_ble_eq_true rfl⟩
theorem EncodedLength.ldyAbsoluteX (op16 : Word) : EncodedLength.Statement (.ldyAbsoluteX op16) := ⟨rfl, Nat.le_of_ble_eq_true rfl, Nat.le_of_ble_eq_true rfl⟩
theorem EncodedLength.staZeroPage (op8 : Byte) : EncodedLength.Statement (.staZeroPage op8) := ⟨rfl, Nat.le_of_ble_eq_true rfl, Nat.le_of_ble_eq_true rfl⟩
theorem EncodedLength.staZeroPageX (op8 : Byte) : EncodedLength.Statement (.staZeroPageX op8) := ⟨rfl, Nat.le_of_ble_eq_true rfl, Nat.le_of_ble_eq_true rfl⟩
theorem EncodedLength.staAbsolute (op16 : Word) : EncodedLength.Statement (.staAbsolute op16) := ⟨rfl, Nat.le_of_ble_eq_true rfl, Nat.le_of_ble_eq_true rfl⟩
theorem EncodedLength.staAbsoluteX (op16 : Word) : EncodedLength.Statement (.staAbsoluteX op16) := ⟨rfl, Nat.le_of_ble_eq_true rfl, Nat.le_of_ble_eq_true rfl⟩
theorem EncodedLength.staAbsoluteY (op16 : Word) : EncodedLength.Statement (.staAbsoluteY op16) := ⟨rfl, Nat.le_of_ble_eq_true rfl, Nat.le_of_ble_eq_true rfl⟩
theorem EncodedLength.staIndirectX (op8 : Byte) : EncodedLength.Statement (.staIndirectX op8) := ⟨rfl, Nat.le_of_ble_eq_true rfl, Nat.le_of_ble_eq_true rfl⟩
theorem EncodedLength.staIndirectY (op8 : Byte) : EncodedLength.Statement (.staIndirectY op8) := ⟨rfl, Nat.le_of_ble_eq_true rfl, Nat.le_of_ble_eq_true rfl⟩
theorem EncodedLength.stxZeroPage (op8 : Byte) : EncodedLength.Statement (.stxZeroPage op8) := ⟨rfl, Nat.le_of_ble_eq_true rfl, Nat.le_of_ble_eq_true rfl⟩
theorem EncodedLength.stxZeroPageY (op8 : Byte) : EncodedLength.Statement (.stxZeroPageY op8) := ⟨rfl, Nat.le_of_ble_eq_true rfl, Nat.le_of_ble_eq_true rfl⟩
theorem EncodedLength.stxAbsolute (op16 : Word) : EncodedLength.Statement (.stxAbsolute op16) := ⟨rfl, Nat.le_of_ble_eq_true rfl, Nat.le_of_ble_eq_true rfl⟩
theorem EncodedLength.styZeroPage (op8 : Byte) : EncodedLength.Statement (.styZeroPage op8) := ⟨rfl, Nat.le_of_ble_eq_true rfl, Nat.le_of_ble_eq_true rfl⟩
theorem EncodedLength.styZeroPageX (op8 : Byte) : EncodedLength.Statement (.styZeroPageX op8) := ⟨rfl, Nat.le_of_ble_eq_true rfl, Nat.le_of_ble_eq_true rfl⟩
theorem EncodedLength.styAbsolute (op16 : Word) : EncodedLength.Statement (.styAbsolute op16) := ⟨rfl, Nat.le_of_ble_eq_true rfl, Nat.le_of_ble_eq_true rfl⟩
theorem EncodedLength.tax : EncodedLength.Statement .tax := ⟨rfl, Nat.le_of_ble_eq_true rfl, Nat.le_of_ble_eq_true rfl⟩
theorem EncodedLength.tay : EncodedLength.Statement .tay := ⟨rfl, Nat.le_of_ble_eq_true rfl, Nat.le_of_ble_eq_true rfl⟩
theorem EncodedLength.tsx : EncodedLength.Statement .tsx := ⟨rfl, Nat.le_of_ble_eq_true rfl, Nat.le_of_ble_eq_true rfl⟩
theorem EncodedLength.txa : EncodedLength.Statement .txa := ⟨rfl, Nat.le_of_ble_eq_true rfl, Nat.le_of_ble_eq_true rfl⟩
theorem EncodedLength.txs : EncodedLength.Statement .txs := ⟨rfl, Nat.le_of_ble_eq_true rfl, Nat.le_of_ble_eq_true rfl⟩
theorem EncodedLength.tya : EncodedLength.Statement .tya := ⟨rfl, Nat.le_of_ble_eq_true rfl, Nat.le_of_ble_eq_true rfl⟩
theorem EncodedLength.nop : EncodedLength.Statement .nop := ⟨rfl, Nat.le_of_ble_eq_true rfl, Nat.le_of_ble_eq_true rfl⟩

theorem Supported.ldaImmediate (op8 : Byte) : Supported.Statement (.ldaImmediate op8) := ⟨rfl, rfl⟩
theorem Supported.ldaZeroPage (op8 : Byte) : Supported.Statement (.ldaZeroPage op8) := ⟨rfl, rfl⟩
theorem Supported.ldaZeroPageX (op8 : Byte) : Supported.Statement (.ldaZeroPageX op8) := ⟨rfl, rfl⟩
theorem Supported.ldaAbsolute (op16 : Word) : Supported.Statement (.ldaAbsolute op16) := ⟨rfl, rfl⟩
theorem Supported.ldaAbsoluteX (op16 : Word) : Supported.Statement (.ldaAbsoluteX op16) := ⟨rfl, rfl⟩
theorem Supported.ldaAbsoluteY (op16 : Word) : Supported.Statement (.ldaAbsoluteY op16) := ⟨rfl, rfl⟩
theorem Supported.ldaIndirectX (op8 : Byte) : Supported.Statement (.ldaIndirectX op8) := ⟨rfl, rfl⟩
theorem Supported.ldaIndirectY (op8 : Byte) : Supported.Statement (.ldaIndirectY op8) := ⟨rfl, rfl⟩
theorem Supported.ldxImmediate (op8 : Byte) : Supported.Statement (.ldxImmediate op8) := ⟨rfl, rfl⟩
theorem Supported.ldxZeroPage (op8 : Byte) : Supported.Statement (.ldxZeroPage op8) := ⟨rfl, rfl⟩
theorem Supported.ldxZeroPageY (op8 : Byte) : Supported.Statement (.ldxZeroPageY op8) := ⟨rfl, rfl⟩
theorem Supported.ldxAbsolute (op16 : Word) : Supported.Statement (.ldxAbsolute op16) := ⟨rfl, rfl⟩
theorem Supported.ldxAbsoluteY (op16 : Word) : Supported.Statement (.ldxAbsoluteY op16) := ⟨rfl, rfl⟩
theorem Supported.ldyImmediate (op8 : Byte) : Supported.Statement (.ldyImmediate op8) := ⟨rfl, rfl⟩
theorem Supported.ldyZeroPage (op8 : Byte) : Supported.Statement (.ldyZeroPage op8) := ⟨rfl, rfl⟩
theorem Supported.ldyZeroPageX (op8 : Byte) : Supported.Statement (.ldyZeroPageX op8) := ⟨rfl, rfl⟩
theorem Supported.ldyAbsolute (op16 : Word) : Supported.Statement (.ldyAbsolute op16) := ⟨rfl, rfl⟩
theorem Supported.ldyAbsoluteX (op16 : Word) : Supported.Statement (.ldyAbsoluteX op16) := ⟨rfl, rfl⟩
theorem Supported.staZeroPage (op8 : Byte) : Supported.Statement (.staZeroPage op8) := ⟨rfl, rfl⟩
theorem Supported.staZeroPageX (op8 : Byte) : Supported.Statement (.staZeroPageX op8) := ⟨rfl, rfl⟩
theorem Supported.staAbsolute (op16 : Word) : Supported.Statement (.staAbsolute op16) := ⟨rfl, rfl⟩
theorem Supported.staAbsoluteX (op16 : Word) : Supported.Statement (.staAbsoluteX op16) := ⟨rfl, rfl⟩
theorem Supported.staAbsoluteY (op16 : Word) : Supported.Statement (.staAbsoluteY op16) := ⟨rfl, rfl⟩
theorem Supported.staIndirectX (op8 : Byte) : Supported.Statement (.staIndirectX op8) := ⟨rfl, rfl⟩
theorem Supported.staIndirectY (op8 : Byte) : Supported.Statement (.staIndirectY op8) := ⟨rfl, rfl⟩
theorem Supported.stxZeroPage (op8 : Byte) : Supported.Statement (.stxZeroPage op8) := ⟨rfl, rfl⟩
theorem Supported.stxZeroPageY (op8 : Byte) : Supported.Statement (.stxZeroPageY op8) := ⟨rfl, rfl⟩
theorem Supported.stxAbsolute (op16 : Word) : Supported.Statement (.stxAbsolute op16) := ⟨rfl, rfl⟩
theorem Supported.styZeroPage (op8 : Byte) : Supported.Statement (.styZeroPage op8) := ⟨rfl, rfl⟩
theorem Supported.styZeroPageX (op8 : Byte) : Supported.Statement (.styZeroPageX op8) := ⟨rfl, rfl⟩
theorem Supported.styAbsolute (op16 : Word) : Supported.Statement (.styAbsolute op16) := ⟨rfl, rfl⟩
theorem Supported.tax : Supported.Statement .tax := ⟨rfl, rfl⟩
theorem Supported.tay : Supported.Statement .tay := ⟨rfl, rfl⟩
theorem Supported.tsx : Supported.Statement .tsx := ⟨rfl, rfl⟩
theorem Supported.txa : Supported.Statement .txa := ⟨rfl, rfl⟩
theorem Supported.txs : Supported.Statement .txs := ⟨rfl, rfl⟩
theorem Supported.tya : Supported.Statement .tya := ⟨rfl, rfl⟩
theorem Supported.nop : Supported.Statement .nop := ⟨rfl, rfl⟩

end Sys2Proof.Laws
end

