-- ==== Sys2Proof/Laws/State.lean ====
section
/-! SUPPORT. One lemma per field per update of the state, so that no proof unfolds a record update. -/

namespace Sys2Proof.Machine

variable (s : State) (r : Reg) (v : Byte) (addr : Word) (n : Nat) (f : Flags)

@[simp] theorem State.advance_a : (s.advance n).a = s.a := rfl
@[simp] theorem State.advance_x : (s.advance n).x = s.x := rfl
@[simp] theorem State.advance_y : (s.advance n).y = s.y := rfl
@[simp] theorem State.advance_s : (s.advance n).s = s.s := rfl
@[simp] theorem State.advance_pc : (s.advance n).pc = s.pc + BitVec.ofNat 16 n := rfl
@[simp] theorem State.advance_flags : (s.advance n).flags = s.flags := rfl
@[simp] theorem State.advance_mem : (s.advance n).mem = s.mem := rfl
@[simp] theorem State.advance_totalCycles : (s.advance n).totalCycles = s.totalCycles := rfl
@[simp] theorem State.advance_instructionsExecuted : (s.advance n).instructionsExecuted = s.instructionsExecuted := rfl

@[simp] theorem State.writeByte_a : (s.writeByte addr v).a = s.a := rfl
@[simp] theorem State.writeByte_x : (s.writeByte addr v).x = s.x := rfl
@[simp] theorem State.writeByte_y : (s.writeByte addr v).y = s.y := rfl
@[simp] theorem State.writeByte_s : (s.writeByte addr v).s = s.s := rfl
@[simp] theorem State.writeByte_pc : (s.writeByte addr v).pc = s.pc := rfl
@[simp] theorem State.writeByte_flags : (s.writeByte addr v).flags = s.flags := rfl
@[simp] theorem State.writeByte_mem : (s.writeByte addr v).mem = Memory.write s.mem addr v := rfl
@[simp] theorem State.writeByte_totalCycles : (s.writeByte addr v).totalCycles = s.totalCycles := rfl
@[simp] theorem State.writeByte_instructionsExecuted : (s.writeByte addr v).instructionsExecuted = s.instructionsExecuted := rfl

@[simp] theorem State.setZN_a : (s.setZN v).a = s.a := rfl
@[simp] theorem State.setZN_x : (s.setZN v).x = s.x := rfl
@[simp] theorem State.setZN_y : (s.setZN v).y = s.y := rfl
@[simp] theorem State.setZN_s : (s.setZN v).s = s.s := rfl
@[simp] theorem State.setZN_pc : (s.setZN v).pc = s.pc := rfl
@[simp] theorem State.setZN_flags : (s.setZN v).flags = flagsZN s.flags v := rfl
@[simp] theorem State.setZN_mem : (s.setZN v).mem = s.mem := rfl
@[simp] theorem State.setZN_totalCycles : (s.setZN v).totalCycles = s.totalCycles := rfl
@[simp] theorem State.setZN_instructionsExecuted : (s.setZN v).instructionsExecuted = s.instructionsExecuted := rfl

@[simp] theorem hostReset_a : (hostReset s).a = s.a := rfl
@[simp] theorem hostReset_x : (hostReset s).x = s.x := rfl
@[simp] theorem hostReset_y : (hostReset s).y = s.y := rfl
@[simp] theorem hostReset_s : (hostReset s).s = s.s := rfl
@[simp] theorem hostReset_pc : (hostReset s).pc = Config.resetPc := rfl
@[simp] theorem hostReset_flags : (hostReset s).flags = s.flags := rfl
@[simp] theorem hostReset_mem : (hostReset s).mem = s.mem := rfl
@[simp] theorem hostReset_totalCycles : (hostReset s).totalCycles = s.totalCycles := rfl
@[simp] theorem hostReset_instructionsExecuted : (hostReset s).instructionsExecuted = s.instructionsExecuted := rfl

@[simp] theorem State.setReg_a_a : (s.setReg .a v).a = v := rfl
@[simp] theorem State.setReg_a_x : (s.setReg .a v).x = s.x := rfl
@[simp] theorem State.setReg_a_y : (s.setReg .a v).y = s.y := rfl
@[simp] theorem State.setReg_a_s : (s.setReg .a v).s = s.s := rfl
@[simp] theorem State.setReg_a_pc : (s.setReg .a v).pc = s.pc := rfl
@[simp] theorem State.setReg_a_flags : (s.setReg .a v).flags = s.flags := rfl
@[simp] theorem State.setReg_a_mem : (s.setReg .a v).mem = s.mem := rfl
@[simp] theorem State.setReg_a_totalCycles : (s.setReg .a v).totalCycles = s.totalCycles := rfl
@[simp] theorem State.setReg_a_instructionsExecuted : (s.setReg .a v).instructionsExecuted = s.instructionsExecuted := rfl

@[simp] theorem State.setReg_x_a : (s.setReg .x v).a = s.a := rfl
@[simp] theorem State.setReg_x_x : (s.setReg .x v).x = v := rfl
@[simp] theorem State.setReg_x_y : (s.setReg .x v).y = s.y := rfl
@[simp] theorem State.setReg_x_s : (s.setReg .x v).s = s.s := rfl
@[simp] theorem State.setReg_x_pc : (s.setReg .x v).pc = s.pc := rfl
@[simp] theorem State.setReg_x_flags : (s.setReg .x v).flags = s.flags := rfl
@[simp] theorem State.setReg_x_mem : (s.setReg .x v).mem = s.mem := rfl
@[simp] theorem State.setReg_x_totalCycles : (s.setReg .x v).totalCycles = s.totalCycles := rfl
@[simp] theorem State.setReg_x_instructionsExecuted : (s.setReg .x v).instructionsExecuted = s.instructionsExecuted := rfl

@[simp] theorem State.setReg_y_a : (s.setReg .y v).a = s.a := rfl
@[simp] theorem State.setReg_y_x : (s.setReg .y v).x = s.x := rfl
@[simp] theorem State.setReg_y_y : (s.setReg .y v).y = v := rfl
@[simp] theorem State.setReg_y_s : (s.setReg .y v).s = s.s := rfl
@[simp] theorem State.setReg_y_pc : (s.setReg .y v).pc = s.pc := rfl
@[simp] theorem State.setReg_y_flags : (s.setReg .y v).flags = s.flags := rfl
@[simp] theorem State.setReg_y_mem : (s.setReg .y v).mem = s.mem := rfl
@[simp] theorem State.setReg_y_totalCycles : (s.setReg .y v).totalCycles = s.totalCycles := rfl
@[simp] theorem State.setReg_y_instructionsExecuted : (s.setReg .y v).instructionsExecuted = s.instructionsExecuted := rfl

@[simp] theorem State.setReg_s_a : (s.setReg .s v).a = s.a := rfl
@[simp] theorem State.setReg_s_x : (s.setReg .s v).x = s.x := rfl
@[simp] theorem State.setReg_s_y : (s.setReg .s v).y = s.y := rfl
@[simp] theorem State.setReg_s_s : (s.setReg .s v).s = v := rfl
@[simp] theorem State.setReg_s_pc : (s.setReg .s v).pc = s.pc := rfl
@[simp] theorem State.setReg_s_flags : (s.setReg .s v).flags = s.flags := rfl
@[simp] theorem State.setReg_s_mem : (s.setReg .s v).mem = s.mem := rfl
@[simp] theorem State.setReg_s_totalCycles : (s.setReg .s v).totalCycles = s.totalCycles := rfl
@[simp] theorem State.setReg_s_instructionsExecuted : (s.setReg .s v).instructionsExecuted = s.instructionsExecuted := rfl

@[simp] theorem State.setReg_any_pc : (s.setReg r v).pc = s.pc := by cases r <;> rfl
@[simp] theorem State.setReg_any_flags : (s.setReg r v).flags = s.flags := by cases r <;> rfl
@[simp] theorem State.setReg_any_mem : (s.setReg r v).mem = s.mem := by cases r <;> rfl
@[simp] theorem State.setReg_any_totalCycles : (s.setReg r v).totalCycles = s.totalCycles := by cases r <;> rfl
@[simp] theorem State.setReg_any_instructionsExecuted : (s.setReg r v).instructionsExecuted = s.instructionsExecuted := by cases r <;> rfl

@[simp] theorem State.getReg_setReg_same : (s.setReg r v).getReg r = v := by cases r <;> rfl

theorem State.getReg_setReg_other (q : Reg) (h : q ≠ r) : (s.setReg r v).getReg q = s.getReg q := by
  cases r <;> cases q <;> first | rfl | exact absurd rfl h

@[simp] theorem State.getReg_advance : (s.advance n).getReg r = s.getReg r := by cases r <;> rfl
@[simp] theorem State.getReg_writeByte : (s.writeByte addr v).getReg r = s.getReg r := by cases r <;> rfl
@[simp] theorem State.getReg_setZN : (s.setZN v).getReg r = s.getReg r := by cases r <;> rfl

@[simp] theorem flagsZN_c : (flagsZN f v).c = f.c := rfl
@[simp] theorem flagsZN_i : (flagsZN f v).i = f.i := rfl
@[simp] theorem flagsZN_d : (flagsZN f v).d = f.d := rfl
@[simp] theorem flagsZN_b : (flagsZN f v).b = f.b := rfl
@[simp] theorem flagsZN_v : (flagsZN f v).v = f.v := rfl
@[simp] theorem flagsZN_z : (flagsZN f v).z = (v == 0x00#8) := rfl
@[simp] theorem flagsZN_n : (flagsZN f v).n = v.getLsbD 7 := rfl

variable (e : EvaluationResult)

@[simp] theorem commit_a : (commit e).a = e.newState.a := rfl
@[simp] theorem commit_x : (commit e).x = e.newState.x := rfl
@[simp] theorem commit_y : (commit e).y = e.newState.y := rfl
@[simp] theorem commit_s : (commit e).s = e.newState.s := rfl
@[simp] theorem commit_pc : (commit e).pc = e.newState.pc := rfl
@[simp] theorem commit_flags : (commit e).flags = e.newState.flags := rfl
@[simp] theorem commit_mem : (commit e).mem = e.newState.mem := rfl
@[simp] theorem commit_totalCycles : (commit e).totalCycles = e.newState.totalCycles + e.cycles := rfl
@[simp] theorem commit_instructionsExecuted :
    (commit e).instructionsExecuted = e.newState.instructionsExecuted + 1 := rfl
@[simp] theorem commit_getReg : (commit e).getReg r = e.newState.getReg r := by cases r <;> rfl

end Sys2Proof.Machine
end

