-- ==== Sys2Proof/Tests/Slice0.lean ====
section
/-! SUPPORT. The model's own tests: the WellFormed smoke, every constructor decoded from the word written out in the
spec's binary column, single steps of 95_test_vectors.md (at most two an instruction), and for each statement with
hypotheses a state and operands that meet them together. -/

namespace Sys2Proof.Tests

open Sys2Proof.Machine Sys2Proof.Rules

/-! ### WellFormed -/

/-- 30_encoding.md R57: pairs no row has are refused, Indirect(None) and a store with Immediate among them. -/
theorem test_wellFormed_refuses_pairs :
    Form.wellFormed ⟨.sta, .immediate⟩ (.byte 0) = false ∧ Form.wellFormed ⟨.ldx, .zeroPage .x⟩ (.byte 0) = false ∧
    Form.wellFormed ⟨.lda, .zeroPage .y⟩ (.byte 0) = false ∧ Form.wellFormed ⟨.lda, .indirect .none⟩ (.byte 0) = false ∧
    Form.wellFormed ⟨.ldx, .indirect .y⟩ (.byte 0) = false ∧ Form.wellFormed ⟨.sty, .absolute .x⟩ (.word 0) = false ∧
    Form.wellFormed ⟨.stx, .absolute .y⟩ (.word 0) = false ∧ Form.wellFormed ⟨.lda, .implied⟩ .none = false ∧
    Form.wellFormed ⟨.tax, .absolute .none⟩ (.word 0) = false ∧ Form.wellFormed ⟨.stx, .zeroPage .x⟩ (.byte 0) = false := by
  decide

/-- 30_encoding.md R57: an operand that is not the mode's is refused. -/
theorem test_wellFormed_refuses_operands :
    Form.wellFormed ⟨.lda, .immediate⟩ .none = false ∧ Form.wellFormed ⟨.lda, .immediate⟩ (.word 0) = false ∧
    Form.wellFormed ⟨.lda, .zeroPage .none⟩ (.word 0) = false ∧ Form.wellFormed ⟨.sta, .absolute .x⟩ (.byte 0) = false ∧
    Form.wellFormed ⟨.sta, .indirect .x⟩ .none = false ∧ Form.wellFormed ⟨.tax, .implied⟩ (.byte 0) = false := by
  decide

/-- Each check also lets something through. -/
theorem test_wellFormed_accepts :
    Form.wellFormed ⟨.lda, .immediate⟩ (.byte 0) = true ∧ Form.wellFormed ⟨.ldx, .zeroPage .y⟩ (.byte 0xFF) = true ∧
    Form.wellFormed ⟨.sta, .absolute .x⟩ (.word 0xFFFF) = true ∧ Form.wellFormed ⟨.tax, .implied⟩ .none = true ∧
    Instr.wellFormed (.staIndirectY 0xFF) = true := by decide

/-! ### Decoding, from the binary column of 30_encoding.md R53 and the operand order of R51 -/

theorem test_decode_lda :
    decode [0b10101001, 0x42] = .instr (.ldaImmediate 0x42) [] ∧ decode [0b10100101, 0x10] = .instr (.ldaZeroPage 0x10) [] ∧
    decode [0b10110101, 0xFF] = .instr (.ldaZeroPageX 0xFF) [] ∧
    decode [0b10101101, 0x34, 0x12] = .instr (.ldaAbsolute 0x1234) [] ∧
    decode [0b10111101, 0xFF, 0x12] = .instr (.ldaAbsoluteX 0x12FF) [] ∧
    decode [0b10111001, 0x00, 0x12] = .instr (.ldaAbsoluteY 0x1200) [] ∧
    decode [0b10100001, 0x20] = .instr (.ldaIndirectX 0x20) [] ∧
    decode [0b10110001, 0x20] = .instr (.ldaIndirectY 0x20) [] := by decide

theorem test_decode_ldx :
    decode [0b10100010, 0x80] = .instr (.ldxImmediate 0x80) [] ∧ decode [0b10100110, 0x10] = .instr (.ldxZeroPage 0x10) [] ∧
    decode [0b10110110, 0xFF] = .instr (.ldxZeroPageY 0xFF) [] ∧
    decode [0b10101110, 0x34, 0x12] = .instr (.ldxAbsolute 0x1234) [] ∧
    decode [0b10111110, 0xFF, 0x12] = .instr (.ldxAbsoluteY 0x12FF) [] := by decide

theorem test_decode_ldy :
    decode [0b10100000, 0x80] = .instr (.ldyImmediate 0x80) [] ∧ decode [0b10100100, 0x10] = .instr (.ldyZeroPage 0x10) [] ∧
    decode [0b10110100, 0xFF] = .instr (.ldyZeroPageX 0xFF) [] ∧
    decode [0b10101100, 0x34, 0x12] = .instr (.ldyAbsolute 0x1234) [] ∧
    decode [0b10111100, 0xFF, 0x12] = .instr (.ldyAbsoluteX 0x12FF) [] := by decide

theorem test_decode_sta :
    decode [0b10000101, 0x10] = .instr (.staZeroPage 0x10) [] ∧ decode [0b10010101, 0xFF] = .instr (.staZeroPageX 0xFF) [] ∧
    decode [0b10001101, 0x34, 0x12] = .instr (.staAbsolute 0x1234) [] ∧
    decode [0b10011101, 0xFF, 0x12] = .instr (.staAbsoluteX 0x12FF) [] ∧
    decode [0b10011001, 0x00, 0x12] = .instr (.staAbsoluteY 0x1200) [] ∧
    decode [0b10000001, 0x20] = .instr (.staIndirectX 0x20) [] ∧
    decode [0b10010001, 0x20] = .instr (.staIndirectY 0x20) [] := by decide

theorem test_decode_stx_sty :
    decode [0b10000110, 0x10] = .instr (.stxZeroPage 0x10) [] ∧ decode [0b10010110, 0xFF] = .instr (.stxZeroPageY 0xFF) [] ∧
    decode [0b10001110, 0x34, 0x12] = .instr (.stxAbsolute 0x1234) [] ∧
    decode [0b10000100, 0x10] = .instr (.styZeroPage 0x10) [] ∧ decode [0b10010100, 0xFF] = .instr (.styZeroPageX 0xFF) [] ∧
    decode [0b10001100, 0x34, 0x12] = .instr (.styAbsolute 0x1234) [] := by decide

theorem test_decode_transfers_and_nop :
    decode [0b10101010] = .instr .tax [] ∧ decode [0b10101000] = .instr .tay [] ∧ decode [0b10111010] = .instr .tsx [] ∧
    decode [0b10001010] = .instr .txa [] ∧ decode [0b10011010] = .instr .txs [] ∧ decode [0b10011000] = .instr .tya [] ∧
    decode [0b11101010] = .instr .nop [] := by decide

/-- The spot checks of 95_test_vectors.md V-DEC: undefined bytes do not fall to a neighbour; a short input is refused. -/
theorem test_decode_refuses :
    decodeOpcode 0x00 = none ∧ decodeOpcode 0xFF = none ∧ decodeOpcode 0x89 = none ∧ decodeOpcode 0x9E = none ∧
    decodeOpcode 0xEB = none ∧ decodeOpcode 0xA3 = none ∧ decodeOpcode 0xB2 = none ∧ decodeOpcode 0x4C = none ∧
    decode [0xAD, 0x34] = .rejected (.truncated 0xAD) ∧ decode [] = .rejected .noBytes := by decide

/-- The bits of spec/opcode_table.json in its own numbering, the second byte above the first. -/
theorem test_decodeTableWord :
    decodeTableWord 8 0xA9 = some (.ldaImmediate 0) ∧ decodeTableWord 16 0x42A9 = some (.ldaImmediate 0x42) ∧
    decodeTableWord 24 0x1234AD = some (.ldaAbsolute 0x1234) ∧ decodeTableWord 8 0xEA = some .nop ∧
    decodeTableWord 8 0x00 = none := by decide

/-! ### One step: 95_test_vectors.md V-OP -/

/-- A row's registers: `a x y s pc Z N`. -/
structure Row where
  a : Byte
  x : Byte
  y : Byte
  s : Byte
  pc : Word
  z : Bool
  n : Bool

/-- The memory with some cells set. -/
def cells (m : Memory) : List (Word × Byte) → Memory
  | [] => m
  | (addr, v) :: rest => cells (Memory.write m addr v) rest

/-- A row's state; the flags no row writes are set to a mix, the counters to 7 and 3. -/
def start (r : Row) (mem : List (Word × Byte)) (bytes : List Byte) : State :=
  ⟨r.a, r.x, r.y, r.s, r.pc, ⟨true, r.z, false, true, false, true, r.n⟩, Memory.writeBytes (cells [] mem) r.pc bytes, 7, 3⟩

/-- One step from a row's start ends as the row says: registers, flags, `pc`, memory, counters. -/
def runs (bytes : List Byte) (before : Row) (mem : List (Word × Byte)) (after : Row) (changed : List (Word × Byte))
    (cycles : Nat) : Bool :=
  let s := start before mem bytes
  match step s with
  | .next t => t == ⟨after.a, after.x, after.y, after.s, after.pc, ⟨true, after.z, false, true, false, true, after.n⟩,
      cells s.mem changed, 7 + cycles, 4⟩
  | _ => false

/-- 95_test_vectors.md L1, 41_load R95: `LDA #$00` -/
theorem test_l1_lda_imm_00 : runs [0xA9, 0x00] ⟨0x55, 0x00, 0x00, 0x00, 0x0200, false, true⟩ []
    ⟨0x00, 0x00, 0x00, 0x00, 0x0202, true, false⟩ [] 2 = true := by decide

/-- 95_test_vectors.md L4, 41_load R95: `LDA #$FF` -/
theorem test_l4_lda_imm_ff : runs [0xA9, 0xFF] ⟨0x00, 0x00, 0x00, 0x00, 0xFFFF, false, false⟩ []
    ⟨0xFF, 0x00, 0x00, 0x00, 0x0001, false, true⟩ [] 2 = true := by decide

/-- 95_test_vectors.md L5, 41_load R96: `LDA $10` -/
theorem test_l5_lda_10 : runs [0xA5, 0x10] ⟨0x00, 0x00, 0x00, 0x00, 0x0200, true, false⟩ [(0x0010, 0x42)]
    ⟨0x42, 0x00, 0x00, 0x00, 0x0202, false, false⟩ [] 3 = true := by decide

/-- 95_test_vectors.md L6, 41_load R96: `LDA $FF` -/
theorem test_l6_lda_ff : runs [0xA5, 0xFF] ⟨0x77, 0x00, 0x00, 0x00, 0x0200, false, false⟩ [(0x00FF, 0x00)]
    ⟨0x00, 0x00, 0x00, 0x00, 0x0202, true, false⟩ [] 3 = true := by decide

/-- 95_test_vectors.md L7, 41_load R97: `LDA $FF,X` -/
theorem test_l7_lda_ff_x : runs [0xB5, 0xFF] ⟨0x00, 0x02, 0x00, 0x00, 0x0200, false, false⟩ [(0x0001, 0x5A), (0x0101, 0xEE)]
    ⟨0x5A, 0x02, 0x00, 0x00, 0x0202, false, false⟩ [] 4 = true := by decide

/-- 95_test_vectors.md L8, 41_load R97: `LDA $10,X` -/
theorem test_l8_lda_10_x : runs [0xB5, 0x10] ⟨0x00, 0x05, 0x00, 0x00, 0x0200, true, false⟩ [(0x0015, 0x80)]
    ⟨0x80, 0x05, 0x00, 0x00, 0x0202, false, true⟩ [] 4 = true := by decide

/-- 95_test_vectors.md L9, 41_load R98: `LDA $1234` -/
theorem test_l9_lda_1234 : runs [0xAD, 0x34, 0x12] ⟨0x00, 0x00, 0x00, 0x00, 0x0200, false, true⟩ [(0x1234, 0x7F)]
    ⟨0x7F, 0x00, 0x00, 0x00, 0x0203, false, false⟩ [] 4 = true := by decide

/-- 95_test_vectors.md L10, 41_load R98: `LDA $0200` -/
theorem test_l10_lda_0200 : runs [0xAD, 0x00, 0x02] ⟨0x00, 0x00, 0x00, 0x00, 0x0200, false, false⟩ []
    ⟨0xAD, 0x00, 0x00, 0x00, 0x0203, false, true⟩ [] 4 = true := by decide

/-- 95_test_vectors.md L12, 41_load R99: `LDA $1200,X` -/
theorem test_l12_lda_1200_x : runs [0xBD, 0x00, 0x12] ⟨0x00, 0xFF, 0x00, 0x00, 0x0200, true, false⟩ [(0x12FF, 0x01)]
    ⟨0x01, 0xFF, 0x00, 0x00, 0x0203, false, false⟩ [] 4 = true := by decide

/-- 95_test_vectors.md L13, 41_load R99: `LDA $FFFF,X` -/
theorem test_l13_lda_ffff_x : runs [0xBD, 0xFF, 0xFF] ⟨0x00, 0x02, 0x00, 0x00, 0x0200, false, true⟩ [(0x0001, 0x00)]
    ⟨0x00, 0x02, 0x00, 0x00, 0x0203, true, false⟩ [] 5 = true := by decide

/-- 95_test_vectors.md L15, 41_load R100: `LDA $1200,Y` -/
theorem test_l15_lda_1200_y : runs [0xB9, 0x00, 0x12] ⟨0x00, 0x00, 0xFF, 0x00, 0x0200, true, false⟩ [(0x12FF, 0x01)]
    ⟨0x01, 0x00, 0xFF, 0x00, 0x0203, false, false⟩ [] 4 = true := by decide

/-- 95_test_vectors.md L16, 41_load R100: `LDA $FFFF,Y` -/
theorem test_l16_lda_ffff_y : runs [0xB9, 0xFF, 0xFF] ⟨0x00, 0x00, 0x02, 0x00, 0x0200, false, true⟩ [(0x0001, 0x00)]
    ⟨0x00, 0x00, 0x02, 0x00, 0x0203, true, false⟩ [] 5 = true := by decide

/-- 95_test_vectors.md L18, 41_load R101: `LDA ($FE,X)` -/
theorem test_l18_lda_fe_x : runs [0xA1, 0xFE] ⟨0x00, 0x04, 0x00, 0x00, 0x0200, false, true⟩ [(0x0002, 0x78), (0x0003, 0x56), (0x5678, 0x00)]
    ⟨0x00, 0x04, 0x00, 0x00, 0x0202, true, false⟩ [] 6 = true := by decide

/-- 95_test_vectors.md L19, 41_load R101: `LDA ($FF,X)` -/
theorem test_l19_lda_ff_x : runs [0xA1, 0xFF] ⟨0x00, 0x00, 0x00, 0x00, 0x0200, false, false⟩ [(0x0000, 0x12), (0x00FF, 0x34), (0x0100, 0x99), (0x1234, 0x11), (0x9934, 0x22)]
    ⟨0x11, 0x00, 0x00, 0x00, 0x0202, false, false⟩ [] 6 = true := by decide

/-- 95_test_vectors.md L22, 41_load R102: `LDA ($20),Y` -/
theorem test_l22_lda_20_y : runs [0xB1, 0x20] ⟨0x00, 0x00, 0x01, 0x00, 0x0200, false, false⟩ [(0x0020, 0xFF), (0x0021, 0x30), (0x3100, 0x91)]
    ⟨0x91, 0x00, 0x01, 0x00, 0x0202, false, true⟩ [] 6 = true := by decide

/-- 95_test_vectors.md L23, 41_load R102: `LDA ($FF),Y` -/
theorem test_l23_lda_ff_y : runs [0xB1, 0xFF] ⟨0x00, 0x00, 0x01, 0x00, 0x0200, false, false⟩ [(0x0000, 0x12), (0x00FF, 0x34), (0x0100, 0x99), (0x1235, 0x11), (0x9935, 0x22)]
    ⟨0x11, 0x00, 0x01, 0x00, 0x0202, false, false⟩ [] 5 = true := by decide

/-- 95_test_vectors.md L25, 41_load R103: `LDX #$00` -/
theorem test_l25_ldx_imm_00 : runs [0xA2, 0x00] ⟨0x00, 0x55, 0x00, 0x00, 0x0200, false, true⟩ []
    ⟨0x00, 0x00, 0x00, 0x00, 0x0202, true, false⟩ [] 2 = true := by decide

/-- 95_test_vectors.md L28, 41_load R103: `LDX #$FF` -/
theorem test_l28_ldx_imm_ff : runs [0xA2, 0xFF] ⟨0x00, 0x00, 0x00, 0x00, 0xFFFF, false, false⟩ []
    ⟨0x00, 0xFF, 0x00, 0x00, 0x0001, false, true⟩ [] 2 = true := by decide

/-- 95_test_vectors.md L29, 41_load R104: `LDX $10` -/
theorem test_l29_ldx_10 : runs [0xA6, 0x10] ⟨0x00, 0x00, 0x00, 0x00, 0x0200, true, false⟩ [(0x0010, 0x42)]
    ⟨0x00, 0x42, 0x00, 0x00, 0x0202, false, false⟩ [] 3 = true := by decide

/-- 95_test_vectors.md L30, 41_load R104: `LDX $FF` -/
theorem test_l30_ldx_ff : runs [0xA6, 0xFF] ⟨0x00, 0x77, 0x00, 0x00, 0x0200, false, false⟩ [(0x00FF, 0x00)]
    ⟨0x00, 0x00, 0x00, 0x00, 0x0202, true, false⟩ [] 3 = true := by decide

/-- 95_test_vectors.md L31, 41_load R105: `LDX $FF,Y` -/
theorem test_l31_ldx_ff_y : runs [0xB6, 0xFF] ⟨0x00, 0x00, 0x02, 0x00, 0x0200, false, false⟩ [(0x0001, 0x5A), (0x0101, 0xEE)]
    ⟨0x00, 0x5A, 0x02, 0x00, 0x0202, false, false⟩ [] 4 = true := by decide

/-- 95_test_vectors.md L32, 41_load R105: `LDX $10,Y` -/
theorem test_l32_ldx_10_y : runs [0xB6, 0x10] ⟨0x00, 0x00, 0x05, 0x00, 0x0200, true, false⟩ [(0x0015, 0x80)]
    ⟨0x00, 0x80, 0x05, 0x00, 0x0202, false, true⟩ [] 4 = true := by decide

/-- 95_test_vectors.md L33, 41_load R106: `LDX $1234` -/
theorem test_l33_ldx_1234 : runs [0xAE, 0x34, 0x12] ⟨0x00, 0x00, 0x00, 0x00, 0x0200, false, true⟩ [(0x1234, 0x7F)]
    ⟨0x00, 0x7F, 0x00, 0x00, 0x0203, false, false⟩ [] 4 = true := by decide

/-- 95_test_vectors.md L34, 41_load R106: `LDX $0200` -/
theorem test_l34_ldx_0200 : runs [0xAE, 0x00, 0x02] ⟨0x00, 0x00, 0x00, 0x00, 0x0200, false, false⟩ []
    ⟨0x00, 0xAE, 0x00, 0x00, 0x0203, false, true⟩ [] 4 = true := by decide

/-- 95_test_vectors.md L36, 41_load R107: `LDX $1200,Y` -/
theorem test_l36_ldx_1200_y : runs [0xBE, 0x00, 0x12] ⟨0x00, 0x00, 0xFF, 0x00, 0x0200, true, false⟩ [(0x12FF, 0x01)]
    ⟨0x00, 0x01, 0xFF, 0x00, 0x0203, false, false⟩ [] 4 = true := by decide

/-- 95_test_vectors.md L37, 41_load R107: `LDX $FFFF,Y` -/
theorem test_l37_ldx_ffff_y : runs [0xBE, 0xFF, 0xFF] ⟨0x00, 0x00, 0x02, 0x00, 0x0200, false, true⟩ [(0x0001, 0x00)]
    ⟨0x00, 0x00, 0x02, 0x00, 0x0203, true, false⟩ [] 5 = true := by decide

/-- 95_test_vectors.md L38, 41_load R108: `LDY #$00` -/
theorem test_l38_ldy_imm_00 : runs [0xA0, 0x00] ⟨0x00, 0x00, 0x55, 0x00, 0x0200, false, true⟩ []
    ⟨0x00, 0x00, 0x00, 0x00, 0x0202, true, false⟩ [] 2 = true := by decide

/-- 95_test_vectors.md L41, 41_load R108: `LDY #$FF` -/
theorem test_l41_ldy_imm_ff : runs [0xA0, 0xFF] ⟨0x00, 0x00, 0x00, 0x00, 0xFFFF, false, false⟩ []
    ⟨0x00, 0x00, 0xFF, 0x00, 0x0001, false, true⟩ [] 2 = true := by decide

/-- 95_test_vectors.md L42, 41_load R109: `LDY $10` -/
theorem test_l42_ldy_10 : runs [0xA4, 0x10] ⟨0x00, 0x00, 0x00, 0x00, 0x0200, true, false⟩ [(0x0010, 0x42)]
    ⟨0x00, 0x00, 0x42, 0x00, 0x0202, false, false⟩ [] 3 = true := by decide

/-- 95_test_vectors.md L43, 41_load R109: `LDY $FF` -/
theorem test_l43_ldy_ff : runs [0xA4, 0xFF] ⟨0x00, 0x00, 0x77, 0x00, 0x0200, false, false⟩ [(0x00FF, 0x00)]
    ⟨0x00, 0x00, 0x00, 0x00, 0x0202, true, false⟩ [] 3 = true := by decide

/-- 95_test_vectors.md L44, 41_load R110: `LDY $FF,X` -/
theorem test_l44_ldy_ff_x : runs [0xB4, 0xFF] ⟨0x00, 0x02, 0x00, 0x00, 0x0200, false, false⟩ [(0x0001, 0x5A), (0x0101, 0xEE)]
    ⟨0x00, 0x02, 0x5A, 0x00, 0x0202, false, false⟩ [] 4 = true := by decide

/-- 95_test_vectors.md L45, 41_load R110: `LDY $10,X` -/
theorem test_l45_ldy_10_x : runs [0xB4, 0x10] ⟨0x00, 0x05, 0x00, 0x00, 0x0200, true, false⟩ [(0x0015, 0x80)]
    ⟨0x00, 0x05, 0x80, 0x00, 0x0202, false, true⟩ [] 4 = true := by decide

/-- 95_test_vectors.md L46, 41_load R111: `LDY $1234` -/
theorem test_l46_ldy_1234 : runs [0xAC, 0x34, 0x12] ⟨0x00, 0x00, 0x00, 0x00, 0x0200, false, true⟩ [(0x1234, 0x7F)]
    ⟨0x00, 0x00, 0x7F, 0x00, 0x0203, false, false⟩ [] 4 = true := by decide

/-- 95_test_vectors.md L47, 41_load R111: `LDY $0200` -/
theorem test_l47_ldy_0200 : runs [0xAC, 0x00, 0x02] ⟨0x00, 0x00, 0x00, 0x00, 0x0200, false, false⟩ []
    ⟨0x00, 0x00, 0xAC, 0x00, 0x0203, false, true⟩ [] 4 = true := by decide

/-- 95_test_vectors.md L49, 41_load R112: `LDY $1200,X` -/
theorem test_l49_ldy_1200_x : runs [0xBC, 0x00, 0x12] ⟨0x00, 0xFF, 0x00, 0x00, 0x0200, true, false⟩ [(0x12FF, 0x01)]
    ⟨0x00, 0xFF, 0x01, 0x00, 0x0203, false, false⟩ [] 4 = true := by decide

/-- 95_test_vectors.md L50, 41_load R112: `LDY $FFFF,X` -/
theorem test_l50_ldy_ffff_x : runs [0xBC, 0xFF, 0xFF] ⟨0x00, 0x02, 0x00, 0x00, 0x0200, false, true⟩ [(0x0001, 0x00)]
    ⟨0x00, 0x02, 0x00, 0x00, 0x0203, true, false⟩ [] 5 = true := by decide

/-- 95_test_vectors.md T1, 42_store R125: `STA $10` -/
theorem test_t1_sta_10 : runs [0x85, 0x10] ⟨0xC3, 0x00, 0x00, 0x00, 0x0200, true, false⟩ [(0x0010, 0x00)]
    ⟨0xC3, 0x00, 0x00, 0x00, 0x0202, true, false⟩ [(0x0010, 0xC3)] 3 = true := by decide

/-- 95_test_vectors.md T2, 42_store R125: `STA $10` -/
theorem test_t2_sta_10 : runs [0x85, 0x10] ⟨0x00, 0x00, 0x00, 0x00, 0x0200, false, true⟩ [(0x0010, 0xEE)]
    ⟨0x00, 0x00, 0x00, 0x00, 0x0202, false, true⟩ [(0x0010, 0x00)] 3 = true := by decide

/-- 95_test_vectors.md T3, 42_store R126: `STA $FF,X` -/
theorem test_t3_sta_ff_x : runs [0x95, 0xFF] ⟨0x5A, 0x02, 0x00, 0x00, 0x0200, false, false⟩ []
    ⟨0x5A, 0x02, 0x00, 0x00, 0x0202, false, false⟩ [(0x0001, 0x5A)] 4 = true := by decide

/-- 95_test_vectors.md T4, 42_store R127: `STA $1234` -/
theorem test_t4_sta_1234 : runs [0x8D, 0x34, 0x12] ⟨0x7F, 0x00, 0x00, 0x00, 0x0200, true, true⟩ []
    ⟨0x7F, 0x00, 0x00, 0x00, 0x0203, true, true⟩ [(0x1234, 0x7F)] 4 = true := by decide

/-- 95_test_vectors.md T5, 42_store R127: `STA $0201` -/
theorem test_t5_sta_0201 : runs [0x8D, 0x01, 0x02] ⟨0x99, 0x00, 0x00, 0x00, 0x0200, false, false⟩ []
    ⟨0x99, 0x00, 0x00, 0x00, 0x0203, false, false⟩ [(0x0201, 0x99)] 4 = true := by decide

/-- 95_test_vectors.md T6, 42_store R128: `STA $12FF,X` -/
theorem test_t6_sta_12ff_x : runs [0x9D, 0xFF, 0x12] ⟨0x80, 0x01, 0x00, 0x00, 0x0200, false, false⟩ []
    ⟨0x80, 0x01, 0x00, 0x00, 0x0203, false, false⟩ [(0x1300, 0x80)] 5 = true := by decide

/-- 95_test_vectors.md T8, 42_store R128: `STA $1200,X` -/
theorem test_t8_sta_1200_x : runs [0x9D, 0x00, 0x12] ⟨0x01, 0x00, 0x00, 0x00, 0x0200, false, false⟩ []
    ⟨0x01, 0x00, 0x00, 0x00, 0x0203, false, false⟩ [(0x1200, 0x01)] 5 = true := by decide

/-- 95_test_vectors.md T9, 42_store R129: `STA $12FF,Y` -/
theorem test_t9_sta_12ff_y : runs [0x99, 0xFF, 0x12] ⟨0x80, 0x00, 0x01, 0x00, 0x0200, false, false⟩ []
    ⟨0x80, 0x00, 0x01, 0x00, 0x0203, false, false⟩ [(0x1300, 0x80)] 5 = true := by decide

/-- 95_test_vectors.md T11, 42_store R129: `STA $1200,Y` -/
theorem test_t11_sta_1200_y : runs [0x99, 0x00, 0x12] ⟨0x01, 0x00, 0x00, 0x00, 0x0200, false, false⟩ []
    ⟨0x01, 0x00, 0x00, 0x00, 0x0203, false, false⟩ [(0x1200, 0x01)] 5 = true := by decide

/-- 95_test_vectors.md T13, 42_store R130: `STA ($FE,X)` -/
theorem test_t13_sta_fe_x : runs [0x81, 0xFE] ⟨0x11, 0x04, 0x00, 0x00, 0x0200, false, false⟩ [(0x0002, 0x78), (0x0003, 0x56)]
    ⟨0x11, 0x04, 0x00, 0x00, 0x0202, false, false⟩ [(0x5678, 0x11)] 6 = true := by decide

/-- 95_test_vectors.md T14, 42_store R130: `STA ($20,X)` -/
theorem test_t14_sta_20_x : runs [0x81, 0x20] ⟨0x44, 0x00, 0x00, 0x00, 0x0200, false, false⟩ [(0x0020, 0x20), (0x0021, 0x00)]
    ⟨0x44, 0x00, 0x00, 0x00, 0x0202, false, false⟩ [(0x0020, 0x44)] 6 = true := by decide

/-- 95_test_vectors.md T16, 42_store R131: `STA ($20),Y` -/
theorem test_t16_sta_20_y : runs [0x91, 0x20] ⟨0xC4, 0x00, 0x01, 0x00, 0x0200, false, false⟩ [(0x0020, 0xFF), (0x0021, 0x30)]
    ⟨0xC4, 0x00, 0x01, 0x00, 0x0202, false, false⟩ [(0x3100, 0xC4)] 6 = true := by decide

/-- 95_test_vectors.md T17, 42_store R131: `STA ($FF),Y` -/
theorem test_t17_sta_ff_y : runs [0x91, 0xFF] ⟨0xC5, 0x00, 0x01, 0x00, 0x0200, false, false⟩ [(0x0000, 0x12), (0x00FF, 0x34), (0x0100, 0x99)]
    ⟨0xC5, 0x00, 0x01, 0x00, 0x0202, false, false⟩ [(0x1235, 0xC5)] 6 = true := by decide

/-- 95_test_vectors.md T19, 42_store R132: `STX $10` -/
theorem test_t19_stx_10 : runs [0x86, 0x10] ⟨0x00, 0xC3, 0x00, 0x00, 0x0200, true, false⟩ [(0x0010, 0x00)]
    ⟨0x00, 0xC3, 0x00, 0x00, 0x0202, true, false⟩ [(0x0010, 0xC3)] 3 = true := by decide

/-- 95_test_vectors.md T20, 42_store R132: `STX $10` -/
theorem test_t20_stx_10 : runs [0x86, 0x10] ⟨0x00, 0x00, 0x00, 0x00, 0x0200, false, true⟩ [(0x0010, 0xEE)]
    ⟨0x00, 0x00, 0x00, 0x00, 0x0202, false, true⟩ [(0x0010, 0x00)] 3 = true := by decide

/-- 95_test_vectors.md T21, 42_store R133: `STX $FF,Y` -/
theorem test_t21_stx_ff_y : runs [0x96, 0xFF] ⟨0x00, 0x5A, 0x02, 0x00, 0x0200, false, false⟩ []
    ⟨0x00, 0x5A, 0x02, 0x00, 0x0202, false, false⟩ [(0x0001, 0x5A)] 4 = true := by decide

/-- 95_test_vectors.md T22, 42_store R134: `STX $1234` -/
theorem test_t22_stx_1234 : runs [0x8E, 0x34, 0x12] ⟨0x00, 0x7F, 0x00, 0x00, 0x0200, true, true⟩ []
    ⟨0x00, 0x7F, 0x00, 0x00, 0x0203, true, true⟩ [(0x1234, 0x7F)] 4 = true := by decide

/-- 95_test_vectors.md T23, 42_store R134: `STX $0201` -/
theorem test_t23_stx_0201 : runs [0x8E, 0x01, 0x02] ⟨0x00, 0x99, 0x00, 0x00, 0x0200, false, false⟩ []
    ⟨0x00, 0x99, 0x00, 0x00, 0x0203, false, false⟩ [(0x0201, 0x99)] 4 = true := by decide

/-- 95_test_vectors.md T24, 42_store R135: `STY $10` -/
theorem test_t24_sty_10 : runs [0x84, 0x10] ⟨0x00, 0x00, 0xC3, 0x00, 0x0200, true, false⟩ [(0x0010, 0x00)]
    ⟨0x00, 0x00, 0xC3, 0x00, 0x0202, true, false⟩ [(0x0010, 0xC3)] 3 = true := by decide

/-- 95_test_vectors.md T25, 42_store R135: `STY $10` -/
theorem test_t25_sty_10 : runs [0x84, 0x10] ⟨0x00, 0x00, 0x00, 0x00, 0x0200, false, true⟩ [(0x0010, 0xEE)]
    ⟨0x00, 0x00, 0x00, 0x00, 0x0202, false, true⟩ [(0x0010, 0x00)] 3 = true := by decide

/-- 95_test_vectors.md T26, 42_store R136: `STY $FF,X` -/
theorem test_t26_sty_ff_x : runs [0x94, 0xFF] ⟨0x00, 0x02, 0x5A, 0x00, 0x0200, false, false⟩ []
    ⟨0x00, 0x02, 0x5A, 0x00, 0x0202, false, false⟩ [(0x0001, 0x5A)] 4 = true := by decide

/-- 95_test_vectors.md T27, 42_store R137: `STY $1234` -/
theorem test_t27_sty_1234 : runs [0x8C, 0x34, 0x12] ⟨0x00, 0x00, 0x7F, 0x00, 0x0200, true, true⟩ []
    ⟨0x00, 0x00, 0x7F, 0x00, 0x0203, true, true⟩ [(0x1234, 0x7F)] 4 = true := by decide

/-- 95_test_vectors.md T28, 42_store R137: `STY $0201` -/
theorem test_t28_sty_0201 : runs [0x8C, 0x01, 0x02] ⟨0x00, 0x00, 0x99, 0x00, 0x0200, false, false⟩ []
    ⟨0x00, 0x00, 0x99, 0x00, 0x0203, false, false⟩ [(0x0201, 0x99)] 4 = true := by decide

/-- 95_test_vectors.md X1, 43_transfer R141: `TAX` -/
theorem test_x1_tax : runs [0xAA] ⟨0x00, 0x22, 0x33, 0x44, 0x0200, false, true⟩ []
    ⟨0x00, 0x00, 0x33, 0x44, 0x0201, true, false⟩ [] 2 = true := by decide

/-- 95_test_vectors.md X2, 43_transfer R141: `TAX` -/
theorem test_x2_tax : runs [0xAA] ⟨0x80, 0x22, 0x33, 0x44, 0x0200, true, false⟩ []
    ⟨0x80, 0x80, 0x33, 0x44, 0x0201, false, true⟩ [] 2 = true := by decide

/-- 95_test_vectors.md X4, 43_transfer R142: `TAY` -/
theorem test_x4_tay : runs [0xA8] ⟨0x00, 0x22, 0x33, 0x44, 0x0200, false, true⟩ []
    ⟨0x00, 0x22, 0x00, 0x44, 0x0201, true, false⟩ [] 2 = true := by decide

/-- 95_test_vectors.md X5, 43_transfer R142: `TAY` -/
theorem test_x5_tay : runs [0xA8] ⟨0x80, 0x22, 0x33, 0x44, 0x0200, true, false⟩ []
    ⟨0x80, 0x22, 0x80, 0x44, 0x0201, false, true⟩ [] 2 = true := by decide

/-- 95_test_vectors.md X7, 43_transfer R143: `TSX` -/
theorem test_x7_tsx : runs [0xBA] ⟨0x11, 0x22, 0x33, 0x00, 0x0200, false, true⟩ []
    ⟨0x11, 0x00, 0x33, 0x00, 0x0201, true, false⟩ [] 2 = true := by decide

/-- 95_test_vectors.md X8, 43_transfer R143: `TSX` -/
theorem test_x8_tsx : runs [0xBA] ⟨0x11, 0x22, 0x33, 0x80, 0x0200, true, false⟩ []
    ⟨0x11, 0x80, 0x33, 0x80, 0x0201, false, true⟩ [] 2 = true := by decide

/-- 95_test_vectors.md X10, 43_transfer R144: `TXA` -/
theorem test_x10_txa : runs [0x8A] ⟨0x11, 0x00, 0x33, 0x44, 0x0200, false, true⟩ []
    ⟨0x00, 0x00, 0x33, 0x44, 0x0201, true, false⟩ [] 2 = true := by decide

/-- 95_test_vectors.md X11, 43_transfer R144: `TXA` -/
theorem test_x11_txa : runs [0x8A] ⟨0x11, 0x80, 0x33, 0x44, 0x0200, true, false⟩ []
    ⟨0x80, 0x80, 0x33, 0x44, 0x0201, false, true⟩ [] 2 = true := by decide

/-- 95_test_vectors.md X13, 43_transfer R146: `TYA` -/
theorem test_x13_tya : runs [0x98] ⟨0x11, 0x22, 0x00, 0x44, 0x0200, false, true⟩ []
    ⟨0x00, 0x22, 0x00, 0x44, 0x0201, true, false⟩ [] 2 = true := by decide

/-- 95_test_vectors.md X14, 43_transfer R146: `TYA` -/
theorem test_x14_tya : runs [0x98] ⟨0x11, 0x22, 0x80, 0x44, 0x0200, true, false⟩ []
    ⟨0x80, 0x22, 0x80, 0x44, 0x0201, false, true⟩ [] 2 = true := by decide

/-- 95_test_vectors.md X16, 43_transfer R145: `TXS` -/
theorem test_x16_txs : runs [0x9A] ⟨0x11, 0x00, 0x33, 0x44, 0x0200, false, true⟩ []
    ⟨0x11, 0x00, 0x33, 0x00, 0x0201, false, true⟩ [] 2 = true := by decide

/-- 95_test_vectors.md X17, 43_transfer R145: `TXS` -/
theorem test_x17_txs : runs [0x9A] ⟨0x11, 0x80, 0x33, 0x44, 0x0200, true, false⟩ []
    ⟨0x11, 0x80, 0x33, 0x80, 0x0201, true, false⟩ [] 2 = true := by decide

/-- 95_test_vectors.md X19, 44_nop R150: `NOP` -/
theorem test_x19_nop : runs [0xEA] ⟨0x11, 0x22, 0x33, 0x44, 0x0200, true, true⟩ []
    ⟨0x11, 0x22, 0x33, 0x44, 0x0201, true, true⟩ [] 2 = true := by decide

/-- 95_test_vectors.md X20, 44_nop R150: `NOP` -/
theorem test_x20_nop : runs [0xEA] ⟨0x11, 0x00, 0x00, 0x00, 0xFFFF, false, false⟩ []
    ⟨0x11, 0x00, 0x00, 0x00, 0x0000, false, false⟩ [] 2 = true := by decide

/-! ### The resolver and the switch: 95_test_vectors.md V-RES -/

/-- A state with only what the resolver reads. -/
def indexed (x y : Byte) (mem : List (Word × Byte)) : State := start ⟨0, x, y, 0, 0x0200, false, false⟩ mem []

/-- A1, A2: the effective address of Immediate is the operand byte's own. -/
theorem test_resolve_immediate :
    resolve .zeroPage .immediate (.byte 0x42) (indexed 0 0 []) = some ⟨0x0201, false⟩ ∧
    resolve .zeroPage .immediate (.byte 0x42) { indexed 0 0 [] with pc := 0xFFFF } = some ⟨0x0000, false⟩ := by decide

/-- A4, A5, A7, A9 -/
theorem test_resolve_zeroPage :
    resolve .zeroPage (.zeroPage .none) (.byte 0xFF) (indexed 2 2 []) = some ⟨0x00FF, false⟩ ∧
    resolve .zeroPage (.zeroPage .x) (.byte 0xFF) (indexed 2 0 []) = some ⟨0x0001, false⟩ ∧
    resolve .zeroPage (.zeroPage .x) (.byte 0x80) (indexed 0x80 0 []) = some ⟨0x0000, false⟩ ∧
    resolve .zeroPage (.zeroPage .y) (.byte 0xFF) (indexed 0 2 []) = some ⟨0x0001, false⟩ := by decide

/-- A12, A14, A15, A17, A18, A19, A20 -/
theorem test_resolve_absolute :
    resolve .zeroPage (.absolute .none) (.word 0xFFFF) (indexed 1 1 []) = some ⟨0xFFFF, false⟩ ∧
    resolve .zeroPage (.absolute .x) (.word 0x12FF) (indexed 1 0 []) = some ⟨0x1300, true⟩ ∧
    resolve .zeroPage (.absolute .x) (.word 0x1200) (indexed 0xFF 0 []) = some ⟨0x12FF, false⟩ ∧
    resolve .zeroPage (.absolute .x) (.word 0x12FF) (indexed 0 1 []) = some ⟨0x12FF, false⟩ ∧
    resolve .zeroPage (.absolute .x) (.word 0xFFFF) (indexed 1 0 []) = some ⟨0x0000, true⟩ ∧
    resolve .zeroPage (.absolute .y) (.word 0x12FF) (indexed 0 1 []) = some ⟨0x1300, true⟩ ∧
    resolve .zeroPage (.absolute .y) (.word 0xFF80) (indexed 0 0x90 []) = some ⟨0x0010, true⟩ := by decide

/-- The cells of A23 to A25, A30 and A31. -/
def pointerAtFF : List (Word × Byte) := [(0x0000, 0x12), (0x00FF, 0x34), (0x0100, 0x99)]

/-- A21, A22, A23, A24, A25 -/
theorem test_resolve_indirectX :
    resolve .zeroPage (.indirect .x) (.byte 0x20) (indexed 4 0 [(0x24, 0x00), (0x25, 0x30)]) = some ⟨0x3000, false⟩ ∧
    resolve .zeroPage (.indirect .x) (.byte 0xFE) (indexed 4 0 [(0x02, 0x78), (0x03, 0x56)]) = some ⟨0x5678, false⟩ ∧
    resolve .zeroPage (.indirect .x) (.byte 0xFF) (indexed 0 0 pointerAtFF) = some ⟨0x1234, false⟩ ∧
    resolve .linear (.indirect .x) (.byte 0xFF) (indexed 0 0 pointerAtFF) = some ⟨0x9934, false⟩ ∧
    resolve .zeroPage (.indirect .x) (.byte 0x00) (indexed 0xFF 0 pointerAtFF) = some ⟨0x1234, false⟩ := by decide

/-- A26, A27, A28, A29, A30, A31 -/
theorem test_resolve_indirectY :
    resolve .zeroPage (.indirect .y) (.byte 0x20) (indexed 0 5 [(0x20, 0x00), (0x21, 0x30)]) = some ⟨0x3005, false⟩ ∧
    resolve .zeroPage (.indirect .y) (.byte 0x20) (indexed 0 1 [(0x20, 0xFF), (0x21, 0x30)]) = some ⟨0x3100, true⟩ ∧
    resolve .zeroPage (.indirect .y) (.byte 0x20) (indexed 0 0 [(0x20, 0xFF), (0x21, 0x30)]) = some ⟨0x30FF, false⟩ ∧
    resolve .zeroPage (.indirect .y) (.byte 0x20) (indexed 0 0x10 [(0x20, 0xF8), (0x21, 0xFF)]) = some ⟨0x0008, true⟩ ∧
    resolve .zeroPage (.indirect .y) (.byte 0xFF) (indexed 0 1 pointerAtFF) = some ⟨0x1235, false⟩ ∧
    resolve .linear (.indirect .y) (.byte 0xFF) (indexed 0 1 pointerAtFF) = some ⟨0x9935, false⟩ := by decide

/-! ### Faults and the host: 95_test_vectors.md V-FAULT and V-HOST -/

/-- A state at `pc` with bytes there. -/
def atBytes (pc : Word) (bytes : List Byte) : State := start ⟨0x11, 0x22, 0x33, 0x44, pc, true, false⟩ [] bytes

/-- F1, F2, F7, F8: the fault names the pc and the byte, and has code 1. -/
theorem test_decodeFailure :
    step (atBytes 0x0300 [0x00]) = .fault (.decodeFailure 0x0300 0x00) ∧
    step (atBytes 0x0300 [0xFF, 0xA9, 0x42]) = .fault (.decodeFailure 0x0300 0xFF) ∧
    step (atBytes 0x0300 [0x89]) = .fault (.decodeFailure 0x0300 0x89) ∧
    step (atBytes 0x0300 [0xB2]) = .fault (.decodeFailure 0x0300 0xB2) ∧
    faultCode (.decodeFailure 0x0300 0x00) = 1 := ⟨rfl, rfl, rfl, rfl, rfl⟩

/-- F3: two steps, the second on byte 02; the first stays committed and the third is not attempted. -/
theorem test_step_stops_at_the_fault :
    stepN 3 (atBytes 0x0300 [0xEA, 0x02, 0xEA]) =
      ({ atBytes 0x0300 [0xEA, 0x02, 0xEA] with pc := 0x0301, totalCycles := 9, instructionsExecuted := 4 },
        .faulted (.decodeFailure 0x0301 0x02)) := by decide

/-- F9 -/
theorem test_step_zero : hostCommand (.step 0) (atBytes 0x0300 [0x00]) = (atBytes 0x0300 [0x00], .report .completed) := by
  decide

/-- The pairs below V-FAULT: each is an InvariantViolation of its evaluator (60_exceptions.md R182). -/
theorem test_invariantViolation :
    let s := atBytes 0x0300 [0xEA]
    evaluate .zeroPage ⟨.sta, .immediate⟩ (.byte 0) s = .fault (.invariantViolation 0x0300 0xEA .sta .immediate) ∧
    evaluate .zeroPage ⟨.ldx, .zeroPage .x⟩ (.byte 0) s = .fault (.invariantViolation 0x0300 0xEA .ldx (.zeroPage .x)) ∧
    evaluate .zeroPage ⟨.lda, .indirect .none⟩ (.byte 0) s =
      .fault (.invariantViolation 0x0300 0xEA .lda (.indirect .none)) ∧
    evaluate .zeroPage ⟨.tax, .absolute .none⟩ (.word 0) s =
      .fault (.invariantViolation 0x0300 0xEA .tax (.absolute .none)) ∧
    faultCode (.invariantViolation 0x0300 0xEA .sta .immediate) = 2 := ⟨rfl, rfl, rfl, rfl, rfl⟩

/-- H1, H2, H3, H4, H7 -/
theorem test_host_memory :
    (hostCommand (.load 0xFFFE [1, 2, 3, 4]) State.reset).1.mem = [⟨0, 3⟩, ⟨1, 4⟩, ⟨0xFFFE, 1⟩, ⟨0xFFFF, 2⟩] ∧
    (hostCommand (.readWord 0xFFFF) (indexed 0 0 [(0xFFFF, 0x34), (0x0000, 0x12)])).2 = .word 0x1234 ∧
    (hostCommand (.readWord 0x1000) (indexed 0 0 [(0x1000, 0xCD), (0x1001, 0xAB)])).2 = .word 0xABCD ∧
    (hostCommand (.readByte 0x0040) (hostCommand (.writeByte 0x0040 0x9C) State.reset).1).2 = .byte 0x9C ∧
    (hostCommand (.load 0x2000 []) State.reset).1 = State.reset := by decide

/-- H5, H6 -/
theorem test_host_reset :
    hostReset (atBytes 0x0203 [0xEA]) = { atBytes 0x0203 [0xEA] with pc := 0x1000 } ∧
    hostReset State.reset = State.reset := by decide

/-- The next step runs the word placed at `pc` (spec/opcode_table.json numbering). -/
theorem test_withFetchWord :
    (stateAfter State.reset (step (State.reset.withFetchWord 8 0xA9))).pc = 0x1002 ∧
    fetchDecode (State.reset.withFetchWord 24 0x1234AD) = .instr (.ldaAbsolute 0x1234) ∧
    step State.reset = .fault (.decodeFailure 0x1000 0x00) := ⟨by decide, by decide, rfl⟩

/-! ### Witnesses: for each statement with hypotheses, a state and operands that meet them together

Where a statement has several clauses, one witness each, at the boundary values of its range. -/

/-- Well-formed at both ends of each operand's range (DecodeOfEncodeIsTheInstruction). -/
theorem test_witness_decodeOfEncode :
    ∀ i ∈ [Instr.ldaImmediate 0, .ldaImmediate 0xFF, .ldxAbsoluteY 0, .ldxAbsoluteY 0xFFFF, .staIndirectY 0xFF, .txs, .nop],
      i.wellFormed = true := by decide

/-- DecodedBytesAreTheEncoding, with bytes left over. -/
theorem test_witness_decodedBytes : decode [0xAD, 0xFF, 0xFF, 0x77] = .instr (.ldaAbsolute 0xFFFF) [0x77] := by decide

/-- OpcodeMapsAgree, both directions of the first clause. -/
theorem test_witness_opcodeMaps :
    decodeOpcode 0x81 = some ⟨.sta, .indirect .x⟩ ∧ opcodeOf .sta (.indirect .x) = some 0x81 ∧
    decodeOpcode 0xEA = some ⟨.nop, .implied⟩ ∧ opcodeOf .nop .implied = some 0xEA := by decide

/-- ListedBytesAreNothingDecoded: listed at each end of R54's ranges, not listed beside them. -/
theorem test_witness_listedBytes :
    (∀ b ∈ [(0x00 : Byte), 0x80, 0xC0, 0xE9, 0xEB, 0xFF],
      listedUndefined (Memory.read (atBytes 0xFFFF [b]).mem (atBytes 0xFFFF [b]).pc) = true) ∧
    (∀ b ∈ [(0x81 : Byte), 0xBE, 0xEA], listedUndefined b = false) := by decide

/-- StepRunsTheDecodedInstruction -/
theorem test_witness_stepRunsDecoded :
    decode (fetchBytes (atBytes 0xFFFE [0x8D, 0x34, 0x12])) = .instr (.staAbsolute 0x1234) [] ∧
    decode (fetchBytes (atBytes 0x0200 [0xEA, 0x34, 0x12])) = .instr .nop [0x34, 0x12] := by decide

/-- StepRunsTheInstructionItsBytesEncode, with the encoding running through the top of memory. -/
theorem test_witness_stepRunsEncoded :
    let s := atBytes 0xFFFE [0x8D, 0x34, 0x12]
    ∀ (k : Nat) (h : k < (encode (.staAbsolute 0x1234)).length),
      Memory.read s.mem (wrap16 (s.pc.toNat + k)) = (encode (.staAbsolute 0x1234))[k] := by decide

/-- OperandsAreTheBytesAfterTheOpcode, one for each kind of operand. -/
theorem test_witness_operands :
    fetchDecode (atBytes 0xFFFF [0xEA]) = .instr .nop ∧
    fetchDecode (atBytes 0xFFFF [0xA9, 0xFF]) = .instr (.ldaImmediate 0xFF) ∧
    fetchDecode (atBytes 0xFFFE [0xAD, 0x34, 0x12]) = .instr (.ldaAbsolute 0x1234) := by decide

/-- DecodeFailureExactlyOnUndefinedByte, both clauses. -/
theorem test_witness_decodeFailure :
    decodeOpcode (Memory.read (atBytes 0x0300 [0x80]).mem (atBytes 0x0300 [0x80]).pc) = none ∧
    step (atBytes 0x0300 [0x80]) = .fault (.decodeFailure 0x0300 0x80) := ⟨by decide, rfl⟩

/-- EveryStepCompletesOrIsADecodeFailure, each side. -/
theorem test_witness_opcodeDefined :
    Safety.opcodeDefined (atBytes 0x0300 [0x81]) = true ∧ Safety.opcodeDefined (atBytes 0x0300 [0x80]) = false := by decide

/-- UnlistedPairsAreInvariantViolations, in each family. -/
theorem test_witness_unlistedPairs :
    Mnemonic.hasMode .lda (.indirect .none) = false ∧ Mnemonic.hasMode .sta .immediate = false ∧
    Mnemonic.hasMode .tax (.absolute .none) = false ∧ Mnemonic.hasMode .nop .immediate = false := by decide

/-- EveryLoadFollowsTheFamilyRule, EveryStoreFollowsTheFamilyRule, EveryTransferFollowsTheFamilyRule (TXS and not). -/
theorem test_witness_families :
    familyOf (Instr.ldaIndirectY 0xFF).form.mnemonic = .load ∧ familyOf (Instr.stxZeroPageY 0).form.mnemonic = .store ∧
    familyOf Instr.txs.form.mnemonic = .transfer ∧ familyOf Instr.tsx.form.mnemonic = .transfer := by decide

/-- Page crossing on both sides of the boundary, and at the top of memory (LoadsCostTheTable and the result statements). -/
theorem test_witness_crosses :
    crosses 0x12FF 0x00 = false ∧ crosses 0x12FF 0x01 = true ∧ crosses 0x1200 0xFF = false ∧ crosses 0x1201 0xFF = true ∧
    crosses 0xFFFF 0x01 = true := by decide

/-- OnlyStoresChangeMemoryAndOnlyOneByte: the stored address and another; an instruction with no source. -/
theorem test_witness_memoryFrame :
    storeSource Mnemonic.sta = some .a ∧
    resolve ptrHiWrap (.absolute .x) (.word 0xFFFF) (indexed 1 0 []) = some ⟨0x0000, true⟩ ∧
    storeSource Mnemonic.lda = none := by decide

/-- SetZNWritesZeroAndNegative, each clause at its boundaries. -/
theorem test_witness_setZN :
    (0x00 : Byte).toNat = 0 ∧ (1 ≤ (0x01 : Byte).toNat ∧ (0x01 : Byte).toNat ≤ 0x7F) ∧
    (1 ≤ (0x7F : Byte).toNat ∧ (0x7F : Byte).toNat ≤ 0x7F) ∧ 0x80 ≤ (0x80 : Byte).toNat ∧ 0x80 ≤ (0xFF : Byte).toNat := by
  decide

/-- 95_test_vectors.md V-ZN, every row. -/
theorem test_setZN :
    let zn := fun v : Byte => ((State.reset.setZN v).flags.z, (State.reset.setZN v).flags.n)
    zn 0x00 = (true, false) ∧ zn 0x01 = (false, false) ∧ zn 0x42 = (false, false) ∧ zn 0x7F = (false, false) ∧
    zn 0x80 = (false, true) ∧ zn 0xC3 = (false, true) ∧ zn 0xFF = (false, true) := by decide

/-- FlagsAreWrittenOnlyBySetZNAndNeverRead, each branch. -/
theorem test_witness_keepsFlags : keepsFlags Mnemonic.txs = true ∧ keepsFlags Mnemonic.tsx = false := by decide

/-- OnlyTheDestinationRegisterChanges -/
theorem test_witness_destination : ∀ r : Reg, destination .nop ≠ some r ∧ (r ≠ .s → destination .txs ≠ some r) := by
  intro r; cases r <;> decide

/-- StackPointerIsTouchedByTsxAndTxsAlone -/
theorem test_witness_stackPointer : Instr.nop ≠ .tsx ∧ Instr.nop ≠ .txs ∧ Instr.staZeroPage 0x10 ≠ .tsx := by decide

/-- NoStepReadsTheCounters: a step that completes and one that does not. -/
theorem test_witness_counters :
    (∃ t, step (atBytes 0x0300 [0xEA]) = .next t) ∧ step (atBytes 0x0300 [0x00]) = .fault (.decodeFailure 0x0300 0x00) :=
  ⟨⟨_, rfl⟩, rfl⟩

/-- WriteIsReadBackAndChangesNoOtherCell, on either side of the written cell. -/
theorem test_witness_write : (0x0000 : Word) ≠ 0xFFFF ∧ (0xFFFE : Word) ≠ 0xFFFF := by decide

/-- ZeroPagePointersUnderBothSettings: the last pointer on which both settings agree. -/
theorem test_witness_zeroPagePointers : (0xFE : Byte).toNat ≠ 0xFF ∧ (0x00 : Byte).toNat ≠ 0xFF := by decide

/-- CanonicalMemoriesThatReadAlikeAreEqual: two memories written in either order. -/
theorem test_witness_canonical :
    let m := cells [] [(0x0001, 5), (0xFFFF, 6)]
    let m' := cells [] [(0xFFFF, 6), (0x0002, 7), (0x0001, 5), (0x0002, 0)]
    Memory.wf m = true ∧ Memory.wf m' = true ∧ ∀ addr : Word, Memory.read m addr = Memory.read m' addr := by
  refine ⟨by decide, by decide, fun addr => ?_⟩
  rw [show cells [] [(0x0001, 5), (0xFFFF, 6)] = cells [] [(0xFFFF, 6), (0x0002, 7), (0x0001, 5), (0x0002, 0)] by decide]

/-- A memory out of order, and one that lists an unlisted byte's value, are not canonical. -/
theorem test_not_canonical : Memory.wf [⟨2, 1⟩, ⟨1, 1⟩] = false ∧ Memory.wf [⟨1, 0⟩] = false ∧
    Memory.wf [⟨1, 1⟩, ⟨1, 2⟩] = false ∧ Memory.wf [⟨65536, 1⟩] = false := by decide

/-- ZeroPageAddressesStayInPageZero, AbsoluteAddressesWrapAndCrossPages, IndirectXIndexesBeforeTheIndirection and
IndirectYIndexesAfterTheIndirection: each mode and index, with the operand running through the top of memory. -/
theorem test_witness_addressing :
    (fetchDecode (atBytes 0xFFFF [0xA5, 0xFF]) = .instr (.ldaZeroPage 0xFF) ∧
      (Instr.ldaZeroPage 0xFF).form.mode = .zeroPage .none) ∧
    (fetchDecode (atBytes 0xFFFF [0xB5, 0xFF]) = .instr (.ldaZeroPageX 0xFF) ∧
      (Instr.ldaZeroPageX 0xFF).form.mode = .zeroPage .x) ∧
    (fetchDecode (atBytes 0xFFFF [0x96, 0x00]) = .instr (.stxZeroPageY 0x00) ∧
      (Instr.stxZeroPageY 0x00).form.mode = .zeroPage .y) ∧
    (fetchDecode (atBytes 0xFFFE [0x8C, 0xFF, 0xFF]) = .instr (.styAbsolute 0xFFFF) ∧
      (Instr.styAbsolute 0xFFFF).form.mode = .absolute .none) ∧
    (fetchDecode (atBytes 0xFFFE [0xBD, 0xFF, 0x12]) = .instr (.ldaAbsoluteX 0x12FF) ∧
      (Instr.ldaAbsoluteX 0x12FF).form.mode = .absolute .x) ∧
    (fetchDecode (atBytes 0xFFFD [0xBE, 0x00, 0x12]) = .instr (.ldxAbsoluteY 0x1200) ∧
      (Instr.ldxAbsoluteY 0x1200).form.mode = .absolute .y) ∧
    (fetchDecode (atBytes 0xFFFF [0xA1, 0xFF]) = .instr (.ldaIndirectX 0xFF) ∧
      (Instr.ldaIndirectX 0xFF).form.mode = .indirect .x) ∧
    (fetchDecode (atBytes 0xFFFF [0x91, 0xFF]) = .instr (.staIndirectY 0xFF) ∧
      (Instr.staIndirectY 0xFF).form.mode = .indirect .y) := by decide

/-- PageCrossedInThreeModesOnly: each of the three, the carry on both sides of its boundary. -/
theorem test_witness_pageCrossed :
    let s := indexed 1 1 [(0x20, 0xFF), (0x21, 0x30)]
    resolve .zeroPage (.absolute .x) (.word 0x12FF) s = some ⟨0x1300, true⟩ ∧
    resolve .zeroPage (.absolute .y) (.word 0x12FF) s = some ⟨0x1300, true⟩ ∧
    resolve .zeroPage (.indirect .y) (.byte 0x20) s = some ⟨0x3100, true⟩ ∧
    resolve .zeroPage (.absolute .x) (.word 0x12FE) s = some ⟨0x12FF, false⟩ := by decide

/-- AccessesAreReadsThenAtMostOneWrite, EveryCompletedStepCostsTwoToSix: a step that writes and one that does not. -/
theorem test_witness_accesses :
    (∃ t, step (atBytes 0x0200 [0x85, 0x10]) = .next t) ∧
    stepAccesses (atBytes 0x0200 [0x85, 0x10]) = [.read 0x0200, .read 0x0201, .write 0x0010 0x11] ∧
    (∃ t, step (atBytes 0x0200 [0xEA]) = .next t) ∧ stepAccesses (atBytes 0x0200 [0xEA]) = [.read 0x0200] :=
  ⟨⟨_, rfl⟩, by decide, ⟨_, rfl⟩, by decide⟩

/-- StepDependsOnlyOnTheBytesItReads: `LDA $FF,X` with `x` = 02 (L7), and a memory that differs in `0x0101`. -/
theorem test_witness_stepDepends :
    let s := start ⟨0, 2, 0, 0, 0x0200, false, false⟩ [(0x0001, 0x5A), (0x0101, 0xEE)] [0xB5, 0xFF]
    let m := Memory.write s.mem 0x0101 0x99
    m ≠ s.mem ∧ ∀ addr : Word, Access.read addr ∈ stepAccesses s → Memory.read m addr = Memory.read s.mem addr := by
  refine ⟨by decide, fun addr h => ?_⟩
  have hl : stepAccesses (start ⟨0, 2, 0, 0, 0x0200, false, false⟩ [(0x0001, 0x5A), (0x0101, 0xEE)] [0xB5, 0xFF]) =
      [.read 0x0200, .read 0x0201, .read 0x0001] := by decide
  rw [hl] at h
  simp only [List.mem_cons, Access.read.injEq, List.not_mem_nil, or_false] at h
  rcases h with rfl | rfl | rfl <;> decide

/-- StoredByteIsFetchedNext: `STA $0203` at `0x0200` with `a` = EA (as program P5). -/
theorem test_witness_storedByteFetched :
    let s := start ⟨0xEA, 0, 0, 0, 0x0200, false, false⟩ [] []
    storeSource (Instr.staAbsolute 0x0203).form.mnemonic = some .a ∧
    resolve ptrHiWrap (Instr.staAbsolute 0x0203).form.mode (Instr.staAbsolute 0x0203).operand s = some ⟨0x0203, false⟩ ∧
    (∃ t, exec (.staAbsolute 0x0203) s = .next t ∧ t.pc = 0x0203) ∧ encode .nop = [s.getReg .a] :=
  ⟨by decide, by decide, ⟨_, rfl, by decide⟩, by decide⟩

/-- StepCommandIsRepeatedSteps, ThreeNopsAdvanceByThree: three NOPs through the top of memory (S9, P6). -/
theorem test_witness_threeNops :
    let s := atBytes 0xFFFE [0xEA, 0xEA, 0xEA]
    (Memory.read s.mem s.pc = 0xEA ∧ Memory.read s.mem (wrap16 (s.pc.toNat + 1)) = 0xEA ∧
      Memory.read s.mem (wrap16 (s.pc.toNat + 2)) = 0xEA) ∧ (stepN 3 s).2 = .completed := by decide

/-- FaultChangesNothingAndRecurs, FlagsAreWrittenOnlyBySetZNAndNeverRead (its clause about a fault). -/
theorem test_witness_fault :
    step (atBytes 0xFFFF [0xEB]) = .fault (.decodeFailure 0xFFFF 0xEB) := rfl

/-- LoadCommandWritesItsRangeOnly: the first byte of H1 is written once, `0x0002` is outside its range. -/
theorem test_witness_load :
    let bytes : List Byte := [1, 2, 3, 4]
    (∀ j, 0 < j → j < bytes.length → wrap16 ((0xFFFE : Word).toNat + j) ≠ wrap16 ((0xFFFE : Word).toNat + 0)) ∧
    ∀ k, k < bytes.length → (0x0002 : Word) ≠ wrap16 ((0xFFFE : Word).toNat + k) := by
  refine ⟨fun j h1 h2 => ?_, by decide⟩
  have h2 : j < 4 := h2
  interval_cases j <;> decide

/-- LoadCommandWritesItsRangeOnly for a load longer than memory: byte 1 of 65537 is not overwritten, byte 0 is. -/
theorem test_witness_load_wraps (bytes : List Byte) (h : bytes.length = 65537) :
    (∀ j, 1 < j → j < bytes.length → wrap16 ((0 : Word).toNat + j) ≠ wrap16 ((0 : Word).toNat + 1)) ∧
    wrap16 ((0 : Word).toNat + 65536) = wrap16 ((0 : Word).toNat + 0) := by
  refine ⟨fun j h1 h2 he => ?_, by decide⟩
  have := congrArg BitVec.toNat he
  simp only [wrap16, BitVec.toNat_ofNat] at this
  omega

/-- StepKeepsTheInvariant, HostCommandsKeepTheInvariant: a state other than reset with the invariant and a step. -/
theorem test_witness_invariant :
    let s := Memory.write State.reset.mem 0x1000 0xEA
    Safety.Inv { State.reset with mem := s, totalCycles := 6, instructionsExecuted := 1 } ∧
    ∃ t, step { State.reset with mem := s, totalCycles := 6, instructionsExecuted := 1 } = .next t :=
  ⟨by decide, ⟨_, rfl⟩⟩

/-- The invariant refuses each kind of bad state. -/
theorem test_invariant_refuses :
    ¬ Safety.Inv { State.reset with mem := [⟨1, 0⟩] } ∧
    ¬ Safety.Inv { State.reset with flags := ⟨false, true, false, false, false, false, true⟩ } ∧
    ¬ Safety.Inv { State.reset with totalCycles := 1 } := by decide

/-- SafeRunsAreTheCompletedStepCommands: a safe run and an unsafe one. -/
theorem test_witness_safeRun :
    Safety.safeRun 3 (atBytes 0x0300 [0xEA, 0xEA, 0xEA]) = true ∧ Safety.safeRun 3 (atBytes 0x0300 [0xEA, 0x02]) = false := by
  decide

end Sys2Proof.Tests
end

/-! PROOFS. The statements of 10_state.md. What an instruction does is said once, as data (`Change`), with one theorem
that runs it alike on every state the addressing cannot tell apart (`exec_change`); the statements about `pc`, the flags
and `s` are facts about that data. -/

namespace Sys2Proof.Proofs

open Sys2Proof.Machine Sys2Proof.Rules

/-! ### What the resolver reads -/

/-- Two states that agree on everything an address or an operand is computed from (40_addressing.md R70). -/
structure SameAddressing (s s' : State) : Prop where
  x : s'.x = s.x
  y : s'.y = s.y
  pc : s'.pc = s.pc
  mem : s'.mem = s.mem

theorem SameAddressing.refl (s : State) : SameAddressing s s := ⟨rfl, rfl, rfl, rfl⟩

theorem SameAddressing.withFlags (s : State) (f : Flags) : SameAddressing s { s with flags := f } :=
  ⟨rfl, rfl, rfl, rfl⟩

theorem SameAddressing.withS (s : State) (v : Byte) : SameAddressing s { s with s := v } :=
  ⟨rfl, rfl, rfl, rfl⟩

theorem SameAddressing.idxval_eq {s s' : State} (h : SameAddressing s s') (idx : IndexedBy) :
    idxval s' idx = idxval s idx := by
  cases idx with
  | none => rfl
  | x => exact h.x
  | y => exact h.y

theorem SameAddressing.resolve_eq {s s' : State} (h : SameAddressing s s') (sw : PtrHiWrap) (mode : AddrMode)
    (o : Operand) : resolve sw mode o s' = resolve sw mode o s := by
  unfold resolve
  split
  · simp only [resolveImmediate, h.pc]
  · simp only [resolveZeroPage, h.idxval_eq]
  · simp only [resolveAbsolute, h.idxval_eq]
  · simp only [resolveIndirectX, pointerX, h.x, h.mem]
  · simp only [resolveIndirectY, h.y, h.mem]
  · rfl

theorem SameAddressing.readOperand_eq {s s' : State} (h : SameAddressing s s') (sw : PtrHiWrap) (mode : AddrMode)
    (o : Operand) : readOperand sw mode o s' = readOperand sw mode o s := by
  unfold readOperand
  split
  · rfl
  · rw [h.resolve_eq, h.mem]

/-! ### Every instruction as an evaluator's run that completes -/

theorem exec_eq_evaluate (i : Instr) (s : State) : exec i s = evaluate ptrHiWrap i.form i.operand s := by
  cases i <;> rfl

theorem exec_completes (i : Instr) (s : State) : ∃ t, exec i s = .next t := by
  cases i <;> exact ⟨_, rfl⟩

theorem length_encode_of_mode (i : Instr) {len : Nat} (h : i.form.mode.length = some len) :
    (encode i).length = 1 + len := by
  have hlen : (encode i).length = i.length := by cases i <;> rfl
  rw [hlen, Instr.length, h]

theorem mode_eq_implied (i : Instr) (h : familyOf i.form.mnemonic = .transfer ∨ familyOf i.form.mnemonic = .noOp) :
    i.form.mode = .implied := by
  cases i <;> simp_all [Instr.form, familyOf]

theorem form_supported (i : Instr) : i.form.supported = true := by
  cases i <;> rfl

/-! ### What an instruction does, as data -/

/-- What an instruction does to the state before `pc` moves and the counters grow, its values already computed, but for
the source register of a store or a transfer. -/
inductive Change where
  | load (target : Reg) (v : Byte)
  | store (addr : Word) (source : Reg)
  | transfer (row : TransferRow)
  | nothing

/-- The change made to a state. -/
def Change.apply : Change → State → State
  | .load target v, s => (s.setReg target v).setZN v
  | .store addr source, s => s.writeByte addr (s.getReg source)
  | .transfer row, s =>
    if row.writesZN then (s.setReg row.dst (s.getReg row.src)).setZN (s.getReg row.src)
    else s.setReg row.dst (s.getReg row.src)
  | .nothing, s => s

/-- The change is one the mnemonic makes: its registers are those of the family's table. -/
def Change.Of (m : Mnemonic) : Change → Prop
  | .load target _ => loadTarget m = some target
  | .store _ source => storeSource m = some source
  | .transfer row => transferRow m = some row
  | .nothing => m = .nop

/-- The end of an instruction of `len` bytes and `c` cycles, its change made: `pc` moves, the counters grow. -/
def finish (len c : Nat) (u : State) : State := commit ⟨u.advance len, c, len⟩

/-- Every instruction makes one change of its mnemonic's table, the same one on every state that forms the same
addresses, and moves `pc` by its encoded length. -/
theorem exec_change (i : Instr) (s : State) :
    ∃ ch c, Change.Of i.form.mnemonic ch ∧
      ∀ s', SameAddressing s s' → exec i s' = .next (finish (encode i).length c (ch.apply s')) := by
  have hsup := form_supported i
  obtain ⟨t, ht⟩ := exec_completes i s
  simp only [exec_eq_evaluate] at ht ⊢
  cases hf : familyOf i.form.mnemonic <;> simp only [evaluate, hf] at ht ⊢ <;>
    obtain ⟨e, he, -⟩ := complete_eq_next ht
  case load =>
    obtain ⟨target, len, r, c, htarget, hlen, hr, hc, -⟩ := evaluateLoad_eq_some he
    refine ⟨.load target r.value, c, htarget, fun s' hs => ?_⟩
    rw [← hs.readOperand_eq] at hr
    simp [runLoad, evaluateLoad, complete, finish, Change.apply, length_encode_of_mode i hlen, hsup, htarget, hlen, hr, hc]
  case store =>
    obtain ⟨source, len, r, c, hsource, hlen, hr, hc, -⟩ := evaluateStore_eq_some he
    refine ⟨.store r.effective source, c, hsource, fun s' hs => ?_⟩
    rw [← hs.resolve_eq] at hr
    simp [runStore, evaluateStore, writeOperand, complete, finish, Change.apply, length_encode_of_mode i hlen, hsup,
      hsource, hlen, hr, hc]
  case transfer =>
    obtain ⟨row, hrow, -⟩ := evaluateTransfer_eq_some he
    have hlen : i.form.mode.length = some 0 := by rw [mode_eq_implied i (.inl hf)]; rfl
    refine ⟨.transfer row, 2, hrow, fun s' _ => ?_⟩
    simp [runTransfer, evaluateTransfer, complete, finish, Change.apply, length_encode_of_mode i hlen, hsup, hrow]
  case noOp =>
    obtain ⟨hnop, -⟩ := evaluateNop_eq_some he
    have hlen : i.form.mode.length = some 0 := by rw [mode_eq_implied i (.inr hf)]; rfl
    refine ⟨.nothing, 2, hnop, fun s' _ => ?_⟩
    simp [runNop, evaluateNop, complete, finish, Change.apply, length_encode_of_mode i hlen, hsup, hnop]

/-! ### The program counter -/

@[simp] theorem Change.apply_pc (ch : Change) (s : State) : (ch.apply s).pc = s.pc := by
  cases ch with
  | load target v => simp [Change.apply]
  | store addr source => simp [Change.apply]
  | transfer row => simp only [Change.apply]; split <;> simp
  | nothing => rfl

theorem add_ofNat_eq_wrap16 (w : Word) (n : Nat) : w + BitVec.ofNat 16 n = wrap16 (w.toNat + n) := by
  apply BitVec.eq_of_toNat_eq
  simp [wrap16]

/-- Settles O14: the change keeps `pc`, so the instruction moves it by the encoded length alone. -/
theorem pcAdvancesByTheEncodedLength : Obligations.PcAdvancesByTheEncodedLength := by
  intro i s
  obtain ⟨ch, c, -, hrun⟩ := exec_change i s
  refine ⟨_, hrun s (.refl s), ?_⟩
  simp [finish, add_ofNat_eq_wrap16]

/-! ### The flags -/

theorem flagsZN_eq_withZN (f : Flags) (v : Byte) : flagsZN f v = withZN f v := by
  have hz : (v == 0x00#8) = decide (v.toNat = 0) := by
    simp [beq_eq_decide, ← BitVec.toNat_inj]
  have hn : v.getLsbD 7 = decide (128 ≤ v.toNat) := by
    rw [← BitVec.msb_eq_getLsbD_last, BitVec.msb_eq_decide]
  rw [flagsZN, withZN, hz, hn]

/-- Settles O31: `SetZN` is the rule's formula, whose three ranges are read off in naturals. -/
theorem setZNWritesZeroAndNegative : Obligations.SetZNWritesZeroAndNegative := by
  intro s v
  refine ⟨by rw [State.setZN, flagsZN_eq_withZN], ?_⟩
  simp only [State.setZN_flags, flagsZN_eq_withZN, withZN, decide_eq_true_eq, decide_eq_false_iff_not]
  omega

theorem getReg_withFlags (s : State) (f : Flags) (r : Reg) :
    State.getReg { s with flags := f } r = s.getReg r := by
  cases r <;> rfl

theorem setReg_withFlags (s : State) (f : Flags) (r : Reg) (v : Byte) :
    State.setReg { s with flags := f } r v = { s.setReg r v with flags := f } := by
  cases r <;> rfl

/-- A change does the same to everything but the flags whatever the flags are. -/
theorem Change.apply_withFlags (ch : Change) (s : State) (f : Flags) :
    { ch.apply { s with flags := f } with flags := (ch.apply s).flags } = ch.apply s := by
  cases ch with
  | load target v =>
    simp only [Change.apply, setReg_withFlags]
    rfl
  | store addr source =>
    simp only [Change.apply, getReg_withFlags]
    rfl
  | transfer row =>
    simp only [Change.apply, getReg_withFlags, setReg_withFlags]
    split <;> rfl
  | nothing => rfl

/-- Whether a change ends in `SetZN`. -/
def Change.setsZN : Change → Bool
  | .load _ _ => true
  | .transfer row => row.writesZN
  | .store _ _ | .nothing => false

theorem Change.apply_flags_of_not_setsZN {ch : Change} (h : ch.setsZN = false) (s : State) :
    (ch.apply s).flags = s.flags := by
  cases ch with
  | load target v => cases h
  | store addr source => rfl
  | transfer row =>
    have hz : row.writesZN = false := h
    simp [Change.apply, hz]
  | nothing => rfl

/-- The byte `SetZN` is given does not depend on the flags. -/
theorem Change.apply_flags_of_setsZN {ch : Change} (h : ch.setsZN = true) (s : State) :
    ∃ v, ∀ f, (ch.apply { s with flags := f }).flags = withZN f v := by
  cases ch with
  | load target v => exact ⟨v, fun f => by simp [Change.apply, setReg_withFlags, flagsZN_eq_withZN]⟩
  | store addr source => cases h
  | transfer row =>
    have hz : row.writesZN = true := h
    exact ⟨s.getReg row.src, fun f => by simp [Change.apply, hz, getReg_withFlags, setReg_withFlags, flagsZN_eq_withZN]⟩
  | nothing => cases h

/-- R15's list of the mnemonics that write no flag is the tables' account of their changes. -/
theorem Change.Of.setsZN_eq {m : Mnemonic} {ch : Change} (h : Change.Of m ch) : ch.setsZN = !keepsFlags m := by
  cases ch with
  | load target v => cases m <;> cases h <;> rfl
  | store addr source => cases m <;> cases h <;> rfl
  | transfer row => cases m <;> cases h <;> rfl
  | nothing => cases h; rfl

/-- Settles O32: one change, made to both states, keeps the flags of both or gives both `SetZN` of one byte. -/
theorem flagsAreWrittenOnlyBySetZNAndNeverRead : Obligations.FlagsAreWrittenOnlyBySetZNAndNeverRead := by
  refine ⟨fun i s f => ?_, fun s f h => by rw [h]; rfl, fun s => rfl⟩
  obtain ⟨ch, c, hof, hrun⟩ := exec_change i s
  refine ⟨_, _, hrun s (.refl s), hrun _ (.withFlags s f),
    congrArg (finish (encode i).length c) (ch.apply_withFlags s f), ?_⟩
  have hset := hof.setsZN_eq
  split
  case isTrue hk =>
    have hno : ch.setsZN = false := by simp [hset, hk]
    exact ⟨ch.apply_flags_of_not_setsZN hno s, ch.apply_flags_of_not_setsZN hno _⟩
  case isFalse hk =>
    obtain ⟨v, hv⟩ := Change.apply_flags_of_setsZN (ch := ch) (by simp [hset, hk]) s
    exact ⟨v, hv s.flags, hv f⟩

/-! ### The stack pointer -/

/-- The change neither reads nor writes `s`. -/
def Change.AvoidsS : Change → Prop
  | .load target _ => target ≠ .s
  | .store _ source => source ≠ .s
  | .transfer row => row.src ≠ .s ∧ row.dst ≠ .s
  | .nothing => True

theorem getReg_withS (s : State) (v : Byte) {r : Reg} (h : r ≠ .s) :
    State.getReg { s with s := v } r = s.getReg r :=
  State.getReg_setReg_other s .s v r h

theorem setReg_withS (s : State) (v w : Byte) {r : Reg} (h : r ≠ .s) :
    State.setReg { s with s := v } r w = { s.setReg r w with s := v } := by
  cases r with
  | s => exact absurd rfl h
  | a | x | y => rfl

theorem setReg_s_of_ne (s : State) (w : Byte) {r : Reg} (h : r ≠ .s) : (s.setReg r w).s = s.s :=
  State.getReg_setReg_other s r w .s h.symm

theorem Change.AvoidsS.apply_s {ch : Change} (h : ch.AvoidsS) (s : State) : (ch.apply s).s = s.s := by
  cases ch with
  | load target v => exact setReg_s_of_ne s v h
  | store addr source => rfl
  | transfer row =>
    obtain ⟨-, hdst⟩ := h
    cases hz : row.writesZN <;> simp [Change.apply, hz, setReg_s_of_ne s _ hdst]
  | nothing => rfl

/-- A change that avoids `s` does the same to everything else whatever `s` holds. -/
theorem Change.AvoidsS.apply_withS {ch : Change} (h : ch.AvoidsS) (s : State) (v : Byte) :
    ch.apply { s with s := v } = { ch.apply s with s := v } := by
  cases ch with
  | load target w => simp [Change.apply, State.setZN, setReg_withS s v w h]
  | store addr source => simp [Change.apply, State.writeByte, getReg_withS s v h]
  | transfer row =>
    obtain ⟨hsrc, hdst⟩ := h
    cases hz : row.writesZN <;>
      simp [Change.apply, hz, State.setZN, getReg_withS s v hsrc, setReg_withS s v _ hdst]
  | nothing => rfl

/-- The tables name `s` for TSX and TXS alone. -/
theorem Change.Of.avoidsS {m : Mnemonic} {ch : Change} (h : Change.Of m ch) (htsx : m ≠ .tsx) (htxs : m ≠ .txs) :
    ch.AvoidsS := by
  cases ch with
  | load target v => cases m <;> cases h <;> simp [Change.AvoidsS]
  | store addr source => cases m <;> cases h <;> simp [Change.AvoidsS]
  | transfer row => cases m <;> cases h <;> simp_all [Change.AvoidsS]
  | nothing => trivial

theorem mnemonic_eq_tsx_iff (i : Instr) : i.form.mnemonic = .tsx ↔ i = .tsx := by
  cases i <;> simp [Instr.form]

theorem mnemonic_eq_txs_iff (i : Instr) : i.form.mnemonic = .txs ↔ i = .txs := by
  cases i <;> simp [Instr.form]

/-- Settles O34: but for TSX and TXS an instruction's change avoids `s`, and no address is formed from it. -/
theorem stackPointerIsTouchedByTsxAndTxsAlone : Obligations.StackPointerIsTouchedByTsxAndTxsAlone := by
  refine ⟨fun i s v htsx htxs => ?_, fun s => ⟨_, rfl, rfl, rfl⟩, fun s v => ⟨_, rfl, rfl, rfl⟩, fun s => rfl⟩
  obtain ⟨ch, c, hof, hrun⟩ := exec_change i s
  have havoid := hof.avoidsS (mt (mnemonic_eq_tsx_iff i).1 htsx) (mt (mnemonic_eq_txs_iff i).1 htxs)
  refine ⟨_, hrun s (.refl s), havoid.apply_s s, ?_⟩
  rw [hrun _ (.withS s v), havoid.apply_withS]
  rfl

end Sys2Proof.Proofs

/-! PROOFS. The statements of 20_memory.md on single bytes and on words: the laws of `lookup` and `update`, and of
`joinBytes`, said of the operations the instructions use. -/

namespace Sys2Proof.Proofs

open Sys2Proof.Machine Sys2Proof.Rules

/-! ### Reading after a write -/

@[simp] theorem read_write_same (m : Memory) (addr : Word) (v : Byte) :
    Memory.read (Memory.write m addr v) addr = v :=
  Memory.lookup_update_same m addr.toNat v

/-- Distinct addresses are distinct cells: an address is its own number below 65536 (R30). -/
theorem read_write_other (m : Memory) {addr other : Word} (v : Byte) (hne : other ≠ addr) :
    Memory.read (Memory.write m addr v) other = Memory.read m other :=
  Memory.lookup_update_other m addr.toNat other.toNat v (BitVec.toNat_ne.mp hne)

/-- Settles O36, by the two laws of an update at the addresses' numbers. -/
theorem writeIsReadBackAndChangesNoOtherCell : Obligations.WriteIsReadBackAndChangesNoOtherCell :=
  fun m addr _ v => ⟨read_write_same m addr v, read_write_other m v⟩

/-! ### Words -/

theorem add_one_eq_wrap16 (w : Word) : w + 1 = wrap16 (w.toNat + 1) :=
  add_ofNat_eq_wrap16 w 1

/-- Settles O37: the word joins the two bytes, and the 16-bit successor of an address is its successor mod 65536. -/
theorem wordsAreLittleEndian : Obligations.WordsAreLittleEndian := by
  intro m addr
  rw [Memory.readWord, joinBytes_toNat, add_one_eq_wrap16]

end Sys2Proof.Proofs

/-! PROOFS. The statements of 40_addressing.md. A fetched operand is read off the decoder once, as the bytes after the
opcode; the resolver's equation for the mode then gives the address, and what is left is the two additions of R75 to R78
said in naturals. -/

namespace Sys2Proof.Proofs

open Sys2Proof.Machine Sys2Proof.Rules

/-! ### The operand a fetched instruction carries -/

/-- The constructor built for a pair and an operand stands for that pair and carries that operand. -/
theorem form_operand_of_ofForm {f : Form} {o : Operand} {i : Instr} (h : Instr.ofForm f o = some i) :
    i.form = f ∧ i.operand = o := by
  obtain ⟨m, mode⟩ := f
  cases mode with
  | implied | immediate => cases m <;> cases o <;> cases h <;> exact ⟨rfl, rfl⟩
  | zeroPage idx | absolute idx | indirect idx =>
    cases idx <;> cases m <;> cases o <;> cases h <;> exact ⟨rfl, rfl⟩

/-- What a successful decode says of its bytes (R56): the first names the instruction's pair, whose mode's length says
which of the others are its operand. -/
theorem decode_eq_instr {op : Byte} {bs rest : List Byte} {i : Instr} (h : decode (op :: bs) = .instr i rest) :
    ∃ n, decodeOpcode op = some i.form ∧ i.form.mode.length = some n ∧ takeOperand n bs = some (i.operand, rest) := by
  simp only [decode] at h
  split at h
  · cases h
  next f hf =>
    split at h
    · cases h
    next n hn =>
      split at h
      · cases h
      next o rest' ho =>
        split at h
        · cases h
        next i' hi =>
          obtain ⟨rfl, rfl⟩ := Decoded.instr.inj h
          obtain ⟨rfl, rfl⟩ := form_operand_of_ofForm hi
          exact ⟨n, hf, hn, ho⟩

/-- The operand of a fetched instruction is assembled from the bytes after its opcode. -/
theorem takeOperand_of_fetchDecode {s : State} {i : Instr} {n : Nat} (h : fetchDecode s = .instr i)
    (hlen : i.form.mode.length = some n) :
    ∃ rest, takeOperand n [Memory.read s.mem (s.pc + 1), Memory.read s.mem (s.pc + 2)] = some (i.operand, rest) := by
  unfold fetchDecode at h
  split at h
  next i' rest hd =>
    cases h
    obtain ⟨n', -, hn', ho⟩ := decode_eq_instr hd
    cases hlen.symm.trans hn'
    exact ⟨rest, ho⟩
  · cases h

theorem operand_eq_byte {s : State} {i : Instr} (h : fetchDecode s = .instr i) (hlen : i.form.mode.length = some 1) :
    i.operand = .byte (Memory.read s.mem (wrap16 (s.pc.toNat + 1))) := by
  obtain ⟨rest, ho⟩ := takeOperand_of_fetchDecode h hlen
  obtain ⟨hop, -⟩ := Prod.mk.inj (Option.some.inj ho)
  rw [← hop, add_one_eq_wrap16]

theorem operand_eq_word {s : State} {i : Instr} (h : fetchDecode s = .instr i) (hlen : i.form.mode.length = some 2) :
    i.operand = .word (Memory.readWord s.mem (wrap16 (s.pc.toNat + 1))) := by
  obtain ⟨rest, ho⟩ := takeOperand_of_fetchDecode h hlen
  have hnext : s.pc + 2 = s.pc + 1 + 1 := by rw [BitVec.add_assoc]; rfl
  obtain ⟨hop, -⟩ := Prod.mk.inj (Option.some.inj ho)
  rw [← hop, Memory.readWord, ← add_one_eq_wrap16, hnext]

/-! ### The two additions -/

theorem byte_add_eq_ofNat_mod (p v : Byte) : p + v = BitVec.ofNat 8 ((p.toNat + v.toNat) % 256) := by
  apply BitVec.eq_of_toNat_eq
  simp

theorem zext16_add_eq_zeroPageAddr (op8 v : Byte) : zext16 (op8 + v) = zeroPageAddr op8 v := by
  apply BitVec.eq_of_toNat_eq
  simp only [zext16, zeroPageAddr, BitVec.toNat_setWidth, BitVec.toNat_add, BitVec.toNat_ofNat]

theorem zeroPageAddr_lt (op8 v : Byte) : (zeroPageAddr op8 v).toNat < 256 := by
  rw [zeroPageAddr, BitVec.toNat_ofNat]
  omega

theorem add_zext16_eq_indexedAddr (base : Word) (v : Byte) : base + zext16 v = indexedAddr base v := by
  have hv : (zext16 v).toNat = v.toNat := BitVec.toNat_setWidth_of_le (by decide)
  rw [indexedAddr, ← hv, ← add_ofNat_eq_wrap16, BitVec.ofNat_toNat, BitVec.setWidth_eq]

@[simp] theorem indexedAddr_zero (base : Word) : indexedAddr base 0x00#8 = base := by
  rw [← add_zext16_eq_indexedAddr]
  exact BitVec.add_zero base

/-- A word's high byte is the number of its page, so R78's test is the rule's. -/
theorem hi8_bne_indexedAddr (base : Word) (v : Byte) : (hi8 base != hi8 (indexedAddr base v)) = crosses base v := by
  rw [crosses, Bool.eq_iff_iff, bne_iff_ne, decide_eq_true_iff, BitVec.toNat_ne, hi8_toNat, hi8_toNat]

/-! ### The addresses -/

/-- Settles O40: the operand is the byte after the opcode, and its sum with the index is taken in 8 bits. -/
theorem zeroPageAddressesStayInPageZero : Obligations.ZeroPageAddressesStayInPageZero := by
  intro s i idx sw h hmode
  have hop := operand_eq_byte h (by rw [hmode]; rfl)
  refine ⟨?_, zeroPageAddr_lt _ _⟩
  rw [hmode, hop, resolve_zeroPage, zext16_add_eq_zeroPageAddr]

/-- Settles O41: the operand is the word after the opcode, its sum with the index is taken in 16 bits, and an index of 0
leaves it where it was. -/
theorem absoluteAddressesWrapAndCrossPages : Obligations.AbsoluteAddressesWrapAndCrossPages := by
  intro s i idx sw h hmode
  have hop := operand_eq_word h (by rw [hmode]; rfl)
  rw [hmode, hop, resolve_absolute, add_zext16_eq_indexedAddr]
  refine ⟨_, rfl, bne_iff_ne, ?_⟩
  rintro rfl
  simp [idxval]

/-- Settles O42: the pointer's address is the byte after the opcode plus X in 8 bits, and its word is the address. -/
theorem indirectXIndexesBeforeTheIndirection : Obligations.IndirectXIndexesBeforeTheIndirection := by
  intro s i sw h hmode
  have hop := operand_eq_byte h (by rw [hmode]; rfl)
  rw [hmode, hop, resolve_indirectX, byte_add_eq_ofNat_mod]

/-- Settles O43: the pointer is at the byte after the opcode, whatever X holds, and Y is added to its word. -/
theorem indirectYIndexesAfterTheIndirection : Obligations.IndirectYIndexesAfterTheIndirection := by
  intro s i sw h hmode
  have hop := operand_eq_byte h (by rw [hmode]; rfl)
  rw [hmode, hop]
  refine ⟨?_, fun x => rfl⟩
  rw [resolve_indirectY, add_zext16_eq_indexedAddr, hi8_bne_indexedAddr]

end Sys2Proof.Proofs

/-! PROOFS. The statements of 41_load.md. What a load leaves and what it costs is one equation of whole states (R90);
the cost of each opcode is then read off the operand its mode reads and the table (R91). -/

namespace Sys2Proof.Proofs

open Sys2Proof.Machine Sys2Proof.Rules

/-! ### The family rule -/

/-- A load's change and the commit after it are the rule's next state: `pc` and the flags are the rule's formulas. -/
theorem finish_load_eq_copiedTo (target : Reg) (v : Byte) (s : State) (len c : Nat) :
    finish len c (Change.apply (.load target v) s) = copiedTo target s v len c := by
  cases target <;> simp only [copiedTo, flagged, counted, ← add_ofNat_eq_wrap16, ← flagsZN_eq_withZN] <;> rfl

/-- The model's cycle table is R91's wherever a load has a cost. -/
theorem loadCycles_eq_loadCost {mode : AddrMode} {crossed : Bool} {c : Nat} (h : loadCycles mode crossed = some c) :
    c = loadCost mode crossed := by
  cases mode with
  | implied => cases h
  | immediate => cases h; rfl
  | zeroPage idx | absolute idx | indirect idx => cases idx <;> cases h <;> rfl

/-- Settles O15: a load's evaluator completes, so it read an operand and found a cost, and its commit is the rule's
state. -/
theorem everyLoadFollowsTheFamilyRule : Obligations.EveryLoadFollowsTheFamilyRule := by
  intro i s hload
  obtain ⟨t, ht⟩ := exec_completes i s
  have hrun : exec i s = runLoad ptrHiWrap i.form i.operand s := by
    rw [exec_eq_evaluate, evaluate, hload]
  obtain ⟨e, he, rfl⟩ := complete_eq_next (hrun.symm.trans ht)
  obtain ⟨target, len, r, c, htarget, hlen, hr, hc, rfl⟩ := evaluateLoad_eq_some he
  refine ⟨target, len, r, htarget, hlen, hr, ?_⟩
  rw [ht, ← loadCycles_eq_loadCost hc, ← finish_load_eq_copiedTo]
  rfl

/-! ### Page crossings -/

/-- A word's page is its high byte over a cleared low byte (00_scope.md R7). -/
theorem page_eq_append (w : Word) : page w = hi8 w ++ 0x00#8 := by
  have hw : hi8 w ++ lo8 w = w :=
    (BitVec.extractLsb'_append_extractLsb'_eq_extractLsb' rfl).trans BitVec.extractLsb'_eq_self
  calc page w
    _ = (hi8 w ++ lo8 w) &&& (BitVec.allOnes 8 ++ 0x00#8) := by rw [hw]; rfl
    _ = hi8 w ++ 0x00#8 := by rw [BitVec.and_append, BitVec.and_allOnes, BitVec.and_zero]

/-- Two words lie in one page when their high bytes agree, so R76's test and R78's are one. -/
theorem page_bne_indexedAddr (base : Word) (v : Byte) : (page base != page (indexedAddr base v)) = crosses base v := by
  rw [← hi8_bne_indexedAddr, Bool.eq_iff_iff, bne_iff_ne, bne_iff_ne, page_eq_append, page_eq_append, ne_eq,
    BitVec.append_left_inj]

theorem readOperand_absolute (sw : PtrHiWrap) (idx : IndexedBy) (op16 : Word) (s : State) :
    readOperand sw (.absolute idx) (.word op16) s =
      some ⟨Memory.read s.mem (indexedAddr op16 (idxval s idx)), crosses op16 (idxval s idx)⟩ := by
  simp [readOperand, add_zext16_eq_indexedAddr, page_bne_indexedAddr]

theorem readOperand_indirectY (sw : PtrHiWrap) (op8 : Byte) (s : State) :
    readOperand sw (.indirect .y) (.byte op8) s =
      some ⟨Memory.read s.mem (indexedAddr (Memory.readWordZP sw s.mem op8) s.y),
        crosses (Memory.readWordZP sw s.mem op8) s.y⟩ := by
  simp [readOperand, add_zext16_eq_indexedAddr, hi8_bne_indexedAddr]

/-! ### The costs -/

@[simp] theorem copiedTo_totalCycles (r : Reg) (s : State) (v : Byte) (len cycles : Nat) :
    (copiedTo r s v len cycles).totalCycles = s.totalCycles + cycles := by
  cases r <;> rfl

/-- A load costs what the table gives for its mode and the crossing its operand reports. -/
theorem load_totalCycles {i : Instr} {s : State} {r : ReadResult} {n : Nat} (hload : familyOf i.form.mnemonic = .load)
    (hr : readOperand ptrHiWrap i.form.mode i.operand s = some r) (hn : loadCost i.form.mode r.pageCrossed = n) :
    ∃ t, exec i s = .next t ∧ t.totalCycles = s.totalCycles + n := by
  obtain ⟨target, len, r', -, -, hr', hexec⟩ := everyLoadFollowsTheFamilyRule i s hload
  obtain rfl : r = r' := Option.some.inj (hr.symm.trans hr')
  exact ⟨_, hexec, by rw [copiedTo_totalCycles, hn]⟩

/-- Settles O16: each opcode's cost is the table's entry for its mode; only for an indexed Absolute and Indirect(Y) does it
depend on the crossing. -/
theorem loadsCostTheTable : Obligations.LoadsCostTheTable := by
  simp only [Obligations.LoadsCostTheTable, List.mem_cons, List.not_mem_nil, or_false, forall_eq_or_imp, forall_eq]
  refine ⟨fun op8 s => ?immediate, fun op8 s => ?zeroPage, fun op8 s => ?zeroPageIndexed, fun op16 s => ?absolute,
    fun op16 s => ?absoluteX, fun op16 s => ?absoluteY, fun op8 s => ?indirectX, fun op8 s => ?indirectY⟩
  case immediate | zeroPage | zeroPageIndexed | absolute =>
    exact ⟨load_totalCycles rfl rfl rfl, load_totalCycles rfl rfl rfl, load_totalCycles rfl rfl rfl⟩
  case absoluteX =>
    have hread := readOperand_absolute ptrHiWrap .x op16 s
    exact ⟨load_totalCycles rfl hread rfl, load_totalCycles rfl hread rfl⟩
  case absoluteY =>
    have hread := readOperand_absolute ptrHiWrap .y op16 s
    exact ⟨load_totalCycles rfl hread rfl, load_totalCycles rfl hread rfl⟩
  case indirectX => exact load_totalCycles rfl rfl rfl
  case indirectY => exact load_totalCycles rfl (readOperand_indirectY ptrHiWrap op8 s) rfl

end Sys2Proof.Proofs

/-! PROOFS. The statements of 42_store.md. What a store leaves and what it costs is one equation of whole states, and its
accesses are one list (R120); the cost of each opcode is then the table's entry for its mode (R121). -/

namespace Sys2Proof.Proofs

open Sys2Proof.Machine Sys2Proof.Rules

/-! ### The family rule -/

/-- A store's change and the commit after it are the rule's next state: `pc` is the rule's formula. -/
theorem finish_store_eq_stored (addr : Word) (source : Reg) (s : State) (len c : Nat) :
    finish len c (Change.apply (.store addr source) s) = stored s addr (s.getReg source) len c := by
  simp only [stored, counted, ← add_ofNat_eq_wrap16]
  rfl

/-- The model's cycle table is R121's wherever a store has a cost. -/
theorem storeCycles_eq_storeCost {mode : AddrMode} {c : Nat} (h : storeCycles mode = some c) : c = storeCost mode := by
  cases mode with
  | implied | immediate => cases h
  | zeroPage idx | absolute idx | indirect idx => cases idx <;> cases h <;> rfl

/-- A store accesses what its resolver reads, then writes. -/
theorem evaluateAccesses_of_store {sw : PtrHiWrap} {f : Form} {o : Operand} {s : State} {r : Resolved} {source : Reg}
    (hstore : familyOf f.mnemonic = .store) (hr : resolve sw f.mode o s = some r)
    (hsource : storeSource f.mnemonic = some source) :
    evaluateAccesses sw f o s =
      (resolveReads sw f.mode o s).map Access.read ++ [.write r.effective (s.getReg source)] := by
  rw [evaluateAccesses, hstore, hr, hsource]

/-- Settles O21: a store's evaluator completes, so it resolved an address and found a cost, and its commit is the rule's
state. -/
theorem everyStoreFollowsTheFamilyRule : Obligations.EveryStoreFollowsTheFamilyRule := by
  intro i s hstore
  obtain ⟨t, ht⟩ := exec_completes i s
  have hrun : exec i s = runStore ptrHiWrap i.form i.operand s := by
    rw [exec_eq_evaluate, evaluate, hstore]
  obtain ⟨e, he, rfl⟩ := complete_eq_next (hrun.symm.trans ht)
  obtain ⟨source, len, r, c, hsource, hlen, hr, hc, rfl⟩ := evaluateStore_eq_some he
  refine ⟨source, len, r, hsource, hlen, hr, ?_, evaluateAccesses_of_store hstore hr hsource⟩
  rw [ht, ← storeCycles_eq_storeCost hc, ← finish_store_eq_stored]
  rfl

/-! ### The costs -/

@[simp] theorem stored_totalCycles (s : State) (addr : Word) (v : Byte) (len cycles : Nat) :
    (stored s addr v len cycles).totalCycles = s.totalCycles + cycles := rfl

/-- A store costs what the table gives for its mode, in every state. -/
theorem store_totalCycles {i : Instr} (s : State) {n : Nat} (hstore : familyOf i.form.mnemonic = .store)
    (hn : storeCost i.form.mode = n) : ∃ t, exec i s = .next t ∧ t.totalCycles = s.totalCycles + n := by
  obtain ⟨source, len, r, -, -, -, hexec, -⟩ := everyStoreFollowsTheFamilyRule i s hstore
  exact ⟨_, hexec, by rw [stored_totalCycles, hn]⟩

/-- Settles O22: each opcode's cost is the table's entry for its mode, which asks for no crossing. -/
theorem storesCostTheTable : Obligations.StoresCostTheTable := by
  simp only [Obligations.StoresCostTheTable, List.mem_cons, List.not_mem_nil, or_false, forall_eq_or_imp, forall_eq]
  refine ⟨fun op8 s => ?zeroPage, fun op8 s => ?zeroPageIndexed, fun op16 s => ?absolute, fun op16 s => ?absoluteIndexed,
    fun op8 s => ?indirect⟩
  case zeroPage | zeroPageIndexed | absolute =>
    exact ⟨store_totalCycles s rfl rfl, store_totalCycles s rfl rfl, store_totalCycles s rfl rfl⟩
  case absoluteIndexed | indirect =>
    exact ⟨store_totalCycles s rfl rfl, store_totalCycles s rfl rfl⟩

end Sys2Proof.Proofs

/-! PROOFS. The statement of 60_exceptions.md. -/

namespace Sys2Proof.Proofs

open Sys2Proof.Machine

/-- Settles O11: each dispatch arm runs a listed pair, and the evaluator's run of such a pair completes
(`exec_completes`). -/
theorem everyInstructionCompletes : Obligations.EveryInstructionCompletes :=
  exec_completes

end Sys2Proof.Proofs

/-! PROOFS. The statement of 70_reset_and_hazards.md on the reset command. -/

namespace Sys2Proof.Proofs

open Sys2Proof.Machine

/-- `RESET_PC` is the spec's vector value, and no other field is written (R200, R202). -/
theorem hostReset_eq_with_pc (s : State) : hostReset s = { s with pc := 0x1000 } := rfl

@[simp] theorem hostCommand_reset (s : State) : hostCommand .reset s = (hostReset s, .done) := rfl

/-- Settles O48: the command is `hostReset`, which writes `pc` alone (`hostReset_eq_with_pc`). -/
theorem resetCommandSetsPcOnly : Obligations.ResetCommandSetsPcOnly := by
  intro s
  rw [hostCommand_reset, hostReset_eq_with_pc]

end Sys2Proof.Proofs

/-! PROOFS. The statements of 30_encoding.md. The two opcode maps are one map (`decodeOpcode_eq_some_iff`), and an
operand's bytes are what operand assembly takes off (`takeOperand_eq_some_iff`); decoding and encoding are each other's
inverse by these two. -/

namespace Sys2Proof.Proofs

open Sys2Proof.Machine Sys2Proof.Rules

/-! ### The two opcode maps -/

/-- A cell of the second table of R53 is a row of the first, and the first finds it: no earlier row has its byte. -/
theorem decodeOpcode_of_opcodeOf {b : Byte} {f : Form} (h : opcodeOf f.mnemonic f.mode = some b) :
    decodeOpcode b = some f := by
  obtain ⟨m, mode⟩ := f
  cases mode with
  | implied | immediate => cases m <;> cases h <;> rfl
  | zeroPage idx | absolute idx | indirect idx => cases idx <;> cases m <;> cases h <;> rfl

/-- A row of the first table of R53 is a cell of the second. -/
theorem opcodeOf_of_mem_opcodeTable :
    ∀ r ∈ opcodeTable, opcodeOf r.form.mnemonic r.form.mode = some r.opcode := by decide

theorem decodeOpcode_eq_some_iff (b : Byte) (f : Form) :
    decodeOpcode b = some f ↔ opcodeOf f.mnemonic f.mode = some b := by
  refine ⟨fun h => ?_, decodeOpcode_of_opcodeOf⟩
  obtain ⟨r, hr, rfl⟩ := Option.map_eq_some_iff.1 h
  obtain rfl : r.opcode = b := by simpa using List.find?_some hr
  exact opcodeOf_of_mem_opcodeTable r (List.mem_of_find?_eq_some hr)

theorem hasMode_eq_supported (f : Form) : f.mnemonic.hasMode f.mode = f.supported := by
  obtain ⟨m, mode⟩ := f
  cases mode with
  | implied | immediate => cases m <;> rfl
  | zeroPage idx | absolute idx | indirect idx => cases idx <;> cases m <;> rfl

/-- Settles O4: the rows and the cells correspond (`decodeOpcode_eq_some_iff`), and the cells are R57's pairs. -/
theorem opcodeMapsAgree : Obligations.OpcodeMapsAgree :=
  ⟨decodeOpcode_eq_some_iff, fun m mode => hasMode_eq_supported ⟨m, mode⟩⟩

/-! ### Operand assembly -/

/-- Operand assembly takes off exactly the operand's bytes (R51). -/
theorem takeOperand_eq_some_iff {n : Nat} {bs rest : List Byte} {o : Operand} :
    takeOperand n bs = some (o, rest) ↔ n = (encodeOperand o).length ∧ bs = encodeOperand o ++ rest := by
  constructor
  · intro h
    unfold takeOperand at h
    split at h <;> cases h <;> simp [encodeOperand]
  · rintro ⟨rfl, rfl⟩
    cases o <;> simp [encodeOperand, takeOperand]

theorem mode_length_eq (i : Instr) : i.form.mode.length = some (encodeOperand i.operand).length := by
  cases i <;> rfl

theorem ofForm_form_operand (i : Instr) : Instr.ofForm i.form i.operand = some i := by
  cases i <;> rfl

/-! ### Decoding and encoding -/

theorem exists_opcode (i : Instr) : ∃ b, opcodeOf i.form.mnemonic i.form.mode = some b :=
  Option.isSome_iff_exists.1 (form_supported i)

theorem encode_eq_cons {i : Instr} {b : Byte} (h : opcodeOf i.form.mnemonic i.form.mode = some b) :
    encode i = b :: encodeOperand i.operand := by
  rw [encode, h]

/-- `Instr` builds well-formed instructions only, so the round trip needs no hypothesis. -/
theorem decode_encode_append (i : Instr) (rest : List Byte) : decode (encode i ++ rest) = .instr i rest := by
  obtain ⟨b, hb⟩ := exists_opcode i
  have hmap := decodeOpcode_of_opcodeOf hb
  have htake : takeOperand _ (encodeOperand i.operand ++ rest) = some (i.operand, rest) :=
    takeOperand_eq_some_iff.2 ⟨rfl, rfl⟩
  simp [encode_eq_cons hb, decode, hmap, mode_length_eq, htake, ofForm_form_operand]

/-- Settles O1: the opcode byte gives the pair back, its mode the number of operand bytes, and these the operand. -/
theorem decodeOfEncodeIsTheInstruction : Obligations.DecodeOfEncodeIsTheInstruction :=
  fun i rest _ => decode_encode_append i rest

/-- Settles O2: the first byte is the byte of the decoded pair, and the operand's bytes are those taken off. -/
theorem decodedBytesAreTheEncoding : Obligations.DecodedBytesAreTheEncoding := by
  intro bs rest i h
  cases bs with
  | nil => cases h
  | cons op bs =>
    obtain ⟨n, hop, -, htake⟩ := decode_eq_instr h
    obtain ⟨-, rfl⟩ := takeOperand_eq_some_iff.1 htake
    rw [encode_eq_cons ((decodeOpcode_eq_some_iff op i.form).1 hop), List.cons_append]

/-- Settles O3: each word is the encoding of its instruction, with no bytes left over. -/
theorem wordsWrittenOutDecode : Obligations.WordsWrittenOutDecode :=
  ⟨decode_encode_append (.ldaImmediate 0x42) [], decode_encode_append (.ldxZeroPageY 0x10) [],
    decode_encode_append (.ldyAbsoluteX 0x12FF) [], decode_encode_append (.staIndirectY 0x86) [],
    decode_encode_append (.stxAbsolute 0x1003) [], decode_encode_append (.styZeroPage 0xFF) [],
    decode_encode_append .tax [], decode_encode_append .tay [], decode_encode_append .tsx [],
    decode_encode_append .txa [], decode_encode_append .txs [], decode_encode_append .tya [],
    decode_encode_append .nop []⟩

end Sys2Proof.Proofs

/-! PROOFS. The statements of 60_exceptions.md and of 50_step_and_host.md on one step. A defined byte at `pc` and any
two bytes after it decode; what decodes completes; every other byte is a DecodeFailure. -/

namespace Sys2Proof.Proofs

open Sys2Proof.Machine Sys2Proof.Rules

/-! ### Which bytes decode -/

theorem isSome_ofForm (f : Form) (o : Operand) : (Instr.ofForm f o).isSome = f.wellFormed o := by
  obtain ⟨m, mode⟩ := f
  cases mode with
  | implied | immediate => cases m <;> cases o <;> rfl
  | zeroPage idx | absolute idx | indirect idx => cases idx <;> cases m <;> cases o <;> rfl

theorem fits_of_length {mode : AddrMode} {o : Operand} (h : mode.length = some (encodeOperand o).length) :
    o.fits mode = true := by
  cases mode with
  | implied | immediate => cases o <;> cases h; rfl
  | zeroPage | absolute => cases o <;> cases h; rfl
  | indirect idx => cases idx <;> cases o <;> cases h <;> rfl

/-- A supported pair has a length, of at most two operand bytes (R57). -/
theorem length_of_supported {f : Form} (h : f.supported = true) : ∃ n, f.mode.length = some n ∧ n ≤ 2 := by
  obtain ⟨m, mode⟩ := f
  cases mode with
  | implied | immediate | zeroPage | absolute => exact ⟨_, rfl, by decide⟩
  | indirect idx =>
    cases idx with
    | none => cases m <;> cases h
    | x | y => exact ⟨_, rfl, by decide⟩

theorem decode_of_decodeOpcode_none {op : Byte} (h : decodeOpcode op = none) (bs : List Byte) :
    decode (op :: bs) = .rejected (.undefinedOpcode op) := by
  simp [decode, h]

/-- A defined byte decodes with any two bytes after it: two are enough for its operand, and the pair and the operand are
an instruction. -/
theorem decode_of_decodeOpcode_some {op : Byte} {f : Form} (h : decodeOpcode op = some f) (b₁ b₂ : Byte) :
    ∃ i rest, decode [op, b₁, b₂] = .instr i rest := by
  have hsup : f.supported = true := Option.isSome_of_eq_some ((decodeOpcode_eq_some_iff op f).1 h)
  obtain ⟨n, hlen, hn⟩ := length_of_supported hsup
  obtain ⟨o, rest, htake⟩ := takeOperand_of_two n hn b₁ b₂
  obtain ⟨rfl, -⟩ := takeOperand_eq_some_iff.1 htake
  have hwf : f.wellFormed o = true := by
    rw [Form.wellFormed, hasMode_eq_supported, hsup, fits_of_length hlen, Bool.and_true]
  obtain ⟨i, hi⟩ := Option.isSome_iff_exists.1 ((isSome_ofForm f o).trans hwf)
  exact ⟨i, rest, by simp [decode, h, hlen, htake, hi]⟩

/-! ### What a step does -/

theorem fetchDecode_of_decode {s : State} {i : Instr} {rest : List Byte} (h : decode (fetchBytes s) = .instr i rest) :
    fetchDecode s = .instr i := by
  rw [fetchDecode, h]

theorem step_of_fetchDecode {s : State} {i : Instr} (h : fetchDecode s = .instr i) : step s = exec i s := by
  rw [step, h]

theorem step_of_fetchDecode_fault {s : State} {f : Fault} (h : fetchDecode s = .fault f) : step s = .fault f := by
  rw [step, h]
  rfl

theorem fetchDecode_of_undefined {s : State} (h : decodeOpcode (Memory.read s.mem s.pc) = none) :
    fetchDecode s = .fault (.decodeFailure s.pc (Memory.read s.mem s.pc)) := by
  rw [fetchDecode, fetchBytes, decode_of_decodeOpcode_none h]

theorem step_of_undefined {s : State} (h : decodeOpcode (Memory.read s.mem s.pc) = none) :
    step s = .fault (.decodeFailure s.pc (Memory.read s.mem s.pc)) :=
  step_of_fetchDecode_fault (fetchDecode_of_undefined h)

theorem fetchDecode_of_defined {s : State} {f : Form} (h : decodeOpcode (Memory.read s.mem s.pc) = some f) :
    ∃ i, fetchDecode s = .instr i := by
  obtain ⟨i, rest, hi⟩ := decode_of_decodeOpcode_some h (Memory.read s.mem (s.pc + 1)) (Memory.read s.mem (s.pc + 2))
  exact ⟨i, fetchDecode_of_decode hi⟩

/-- Settles O10: the byte at `pc` is defined and what it decodes to completes (`exec_completes`), or it is not. -/
theorem everyStepCompletesOrIsADecodeFailure : Obligations.EveryStepCompletesOrIsADecodeFailure := by
  intro s
  unfold Safety.opcodeDefined
  cases hop : decodeOpcode (Memory.read s.mem s.pc) with
  | none => exact .inr ⟨rfl, step_of_undefined hop⟩
  | some f =>
    obtain ⟨i, hi⟩ := fetchDecode_of_defined hop
    obtain ⟨t, ht⟩ := exec_completes i s
    exact .inl ⟨rfl, t, (step_of_fetchDecode hi).trans ht⟩

/-- Settles O9: a completed step is no fault, so a step that faults had an undefined byte. -/
theorem decodeFailureExactlyOnUndefinedByte : Obligations.DecodeFailureExactlyOnUndefinedByte := by
  refine fun s => ⟨step_of_undefined, fun p b hfault => ?_⟩
  obtain ⟨-, t, ht⟩ | ⟨hundefined, -⟩ := everyStepCompletesOrIsADecodeFailure s
  · rw [ht] at hfault
    cases hfault
  · exact Option.not_isSome_iff_eq_none.1 (Bool.eq_false_iff.1 hundefined)

/-- Settles O5: the list is the complement of the map, byte by byte, and a step that fetches such a byte faults. -/
theorem listedBytesAreNothingDecoded : Obligations.ListedBytesAreNothingDecoded := by
  have hlist : ∀ b : Byte, decodeOpcode b = none ↔ listedUndefined b = true := by decide
  exact ⟨hlist, rfl, fun s h => step_of_undefined ((hlist _).2 h)⟩

/-- Settles O6: the fetch gives the decoded instruction. -/
theorem stepRunsTheDecodedInstruction : Obligations.StepRunsTheDecodedInstruction :=
  fun _ _ _ h => step_of_fetchDecode (fetchDecode_of_decode h)

theorem fetchBytes_getElem (s : State) (k : Nat) (h : k < (fetchBytes s).length) :
    (fetchBytes s)[k] = Memory.read s.mem (wrap16 (s.pc.toNat + k)) := by
  rw [← add_ofNat_eq_wrap16]
  match k, h with
  | 0, _ => rw [show s.pc + BitVec.ofNat 16 0 = s.pc from BitVec.add_zero _]; rfl
  | 1, _ => rfl
  | 2, _ => rfl

theorem length_encode_le_three (i : Instr) : (encode i).length ≤ 3 := by
  rw [length_encode_of_mode i (mode_length_eq i)]
  cases i.operand <;> simp [encodeOperand]

/-- Memory that holds an instruction's bytes from `pc` on gives that instruction to the fetch. -/
theorem fetchDecode_of_encode {s : State} {i : Instr}
    (h : ∀ (k : Nat) (hk : k < (encode i).length), Memory.read s.mem (wrap16 (s.pc.toNat + k)) = (encode i)[k]) :
    fetchDecode s = .instr i := by
  have hprefix : encode i <+: fetchBytes s :=
    List.prefix_iff_getElem.2 ⟨length_encode_le_three i, fun k hk => by rw [fetchBytes_getElem, h k hk]⟩
  obtain ⟨rest, hrest⟩ := hprefix
  exact fetchDecode_of_decode (hrest ▸ decode_encode_append i rest)

/-- Settles O7: the bytes fetched begin with the encoding, so the fetch gives the instruction. -/
theorem stepRunsTheInstructionItsBytesEncode : Obligations.StepRunsTheInstructionItsBytesEncode :=
  fun _ _ h => step_of_fetchDecode (fetchDecode_of_encode h)

/-- A byte at `pc` that is a whole encoding is the instruction the step runs. -/
theorem step_of_one_byte {s : State} {i : Instr} {b : Byte} (henc : encode i = [b])
    (hread : Memory.read s.mem s.pc = b) : step s = exec i s := by
  refine step_of_fetchDecode (fetchDecode_of_encode fun k hk => ?_)
  obtain rfl : k = 0 := by
    rw [henc] at hk
    exact Nat.lt_one_iff.1 hk
  have hzero : wrap16 (s.pc.toNat + 0) = s.pc := (add_ofNat_eq_wrap16 s.pc 0).symm.trans (BitVec.add_zero s.pc)
  simp only [hzero, hread, henc, List.getElem_cons_zero]

theorem wrap16_wrap16_add (n k : Nat) : wrap16 ((wrap16 n).toNat + k) = wrap16 (n + k) := by
  simp [wrap16]

/-- Settles O8: the operand's kind says how many bytes its mode has, and these bytes are the ones after the opcode. -/
theorem operandsAreTheBytesAfterTheOpcode : Obligations.OperandsAreTheBytesAfterTheOpcode := by
  intro s i h
  have hlen := mode_length_eq i
  cases ho : i.operand with
  | none => cases i <;> cases ho <;> rfl
  | byte op8 =>
    rw [ho] at hlen
    exact Operand.byte.inj (ho.symm.trans (operand_eq_byte h hlen))
  | word op16 =>
    rw [ho] at hlen
    obtain rfl := Operand.word.inj (ho.symm.trans (operand_eq_word h hlen))
    have hword := wordsAreLittleEndian s.mem (wrap16 (s.pc.toNat + 1))
    rwa [wrap16_wrap16_add] at hword

/-! ### The dispatch by family -/

/-- Settles O13: each arm of the dispatch runs its family's evaluator on its own pair. -/
theorem execIsTheFamilyEvaluator : Obligations.ExecIsTheFamilyEvaluator :=
  exec_eq_evaluate

/-- Every evaluator asks first whether the pair is one of R53's. -/
theorem evaluate_of_not_supported {f : Form} (h : f.supported = false) (sw : PtrHiWrap) (o : Operand) (s : State) :
    evaluate sw f o s = .fault (invariantViolationAt f s) := by
  unfold evaluate
  split
  · simp [runLoad, evaluateLoad, complete, raiseFault, h]
  · simp [runStore, evaluateStore, complete, raiseFault, h]
  · simp [runTransfer, evaluateTransfer, complete, raiseFault, h]
  · simp [runNop, evaluateNop, complete, raiseFault, h]

/-- Settles O12: an unlisted pair has no opcode byte (`hasMode_eq_supported`); no step's fault is
another than DecodeFailure. -/
theorem unlistedPairsAreInvariantViolations : Obligations.UnlistedPairsAreInvariantViolations := by
  refine ⟨fun sw f o s h => evaluate_of_not_supported ((hasMode_eq_supported f).symm.trans h) sw o s, fun m => rfl,
    fun sw o s => by cases o <;> rfl, fun s p b m mode h => ?_⟩
  obtain ⟨-, t, ht⟩ | ⟨-, hfault⟩ := everyStepCompletesOrIsADecodeFailure s
  · rw [ht] at h
    cases h
  · rw [hfault] at h
    cases h

end Sys2Proof.Proofs

/-! PROOFS. The statements of 20_memory.md and 40_addressing.md on zero-page pointers, on the canonical form of memory,
and on where a page crossing is reported; and the resolver's addresses in the formulas of the rules. -/

namespace Sys2Proof.Proofs

open Sys2Proof.Machine Sys2Proof.Rules

/-! ### Zero-page pointers -/

theorem zext16_eq_ofNat (p : Byte) : zext16 p = BitVec.ofNat 16 p.toNat := by
  simp [zext16, BitVec.ofNat_toNat]

/-- The setting `zero_page` adds in 8 bits. -/
theorem pointerHighAddr_zeroPage (p : Byte) :
    pointerHighAddr .zeroPage p = BitVec.ofNat 16 ((p.toNat + 1) % 256) := by
  rw [pointerHighAddr, zext16_eq_ofNat, BitVec.toNat_add]
  rfl

/-- The setting `linear` adds in 16 bits, which a byte and 1 never wrap. -/
theorem pointerHighAddr_linear (p : Byte) : pointerHighAddr .linear p = BitVec.ofNat 16 (p.toNat + 1) := by
  rw [pointerHighAddr, zext16_eq_ofNat, BitVec.ofNat_add]
  rfl

theorem readWordZP_toNat (sw : PtrHiWrap) (m : Memory) (p : Byte) :
    (Memory.readWordZP sw m p).toNat =
      256 * (Memory.read m (pointerHighAddr sw p)).toNat + (Memory.read m (BitVec.ofNat 16 p.toNat)).toNat := by
  rw [Memory.readWordZP, joinBytes_toNat, zext16_eq_ofNat]

/-- Settles O38: below `0xFF` the pointer's successor is the same in 8 bits and in 16. -/
theorem zeroPagePointersUnderBothSettings : Obligations.ZeroPagePointersUnderBothSettings := by
  intro m p
  refine ⟨by rw [readWordZP_toNat, pointerHighAddr_zeroPage], by rw [readWordZP_toNat, pointerHighAddr_linear],
    fun hne => ?_⟩
  have hmod : (p.toNat + 1) % 256 = p.toNat + 1 := by omega
  rw [Memory.readWordZP, Memory.readWordZP, pointerHighAddr_zeroPage, pointerHighAddr_linear, hmod]

/-- The word of a zero-page pointer under the model's setting (log 4) is the rule's. -/
theorem readWordZP_eq_pointer (m : Memory) (p : Byte) : Memory.readWordZP ptrHiWrap m p = pointer m p := by
  have hlo : zeroPageAddr p 0 = zext16 p := by
    rw [← zext16_add_eq_zeroPageAddr]
    exact congrArg zext16 (BitVec.add_zero p)
  apply BitVec.eq_of_toNat_eq
  rw [Memory.readWordZP, joinBytes_toNat, pointer, hlo, ← zext16_add_eq_zeroPageAddr, BitVec.toNat_ofNat]
  simp only [ptrHiWrap, pointerHighAddr]
  omega

/-! ### The canonical form of memory -/

theorem wfFrom_cons_iff (lo k : Nat) (v : Byte) (rest : Memory) :
    Memory.wfFrom lo ((k, v) :: rest) = true ↔
      lo ≤ k ∧ k < Config.memorySize ∧ v ≠ unlistedByte ∧ Memory.wfFrom (k + 1) rest = true := by
  simp [Memory.wfFrom, and_assoc]

@[simp] theorem lookup_cons_same (k : Nat) (v : Byte) (rest : Memory) : Memory.lookup ((k, v) :: rest) k = v :=
  if_pos rfl

theorem lookup_cons_other {k addr : Nat} (v : Byte) (rest : Memory) (h : k ≠ addr) :
    Memory.lookup ((k, v) :: rest) addr = Memory.lookup rest addr :=
  if_neg h

theorem lookup_below {lo addr : Nat} {m : Memory} (h : Memory.wfFrom lo m = true) (hlt : addr < lo) :
    Memory.lookup m addr = unlistedByte := by
  induction m generalizing lo with
  | nil => rfl
  | cons head rest ih =>
    obtain ⟨k, v⟩ := head
    obtain ⟨hk, -, -, hrest⟩ := (wfFrom_cons_iff lo k v rest).1 h
    rw [lookup_cons_other v rest (by omega), ih hrest (by omega)]

/-- A canonical memory with a listed byte at `k` does not begin above `k`. -/
theorem first_le_of_lookup {lo k addr : Nat} {v : Byte} {rest : Memory}
    (h : Memory.wfFrom lo ((k, v) :: rest) = true)
    (hlisted : Memory.lookup ((k, v) :: rest) addr ≠ unlistedByte) : k ≤ addr := by
  obtain ⟨-, hrest⟩ := (wfFrom_cons_iff lo k v rest).1 h
  by_contra hlt
  exact hlisted (lookup_below ((wfFrom_cons_iff k k v rest).2 ⟨le_rfl, hrest⟩) (by omega))

/-- Two canonical memories that read alike begin with the same entry, since each begins no higher than the other, and go
on alike. -/
theorem eq_of_lookup_eq {lo lo' : Nat} {m m' : Memory} (h : Memory.wfFrom lo m = true)
    (h' : Memory.wfFrom lo' m' = true)
    (hread : ∀ addr, addr < Config.memorySize → Memory.lookup m addr = Memory.lookup m' addr) : m = m' := by
  induction m generalizing lo lo' m' with
  | nil =>
    cases m' with
    | nil => rfl
    | cons head' rest' =>
      obtain ⟨k', v'⟩ := head'
      obtain ⟨-, hk', hv', -⟩ := (wfFrom_cons_iff lo' k' v' rest').1 h'
      exact absurd ((lookup_cons_same k' v' rest').symm.trans (hread k' hk').symm) hv'
  | cons head rest ih =>
    obtain ⟨k, v⟩ := head
    obtain ⟨-, hk, hv, hrest⟩ := (wfFrom_cons_iff lo k v rest).1 h
    have hatk := hread k hk
    rw [lookup_cons_same] at hatk
    cases m' with
    | nil => exact absurd hatk hv
    | cons head' rest' =>
      obtain ⟨k', v'⟩ := head'
      obtain ⟨-, hk', hv', hrest'⟩ := (wfFrom_cons_iff lo' k' v' rest').1 h'
      have hle' : k' ≤ k := first_le_of_lookup h' (hatk ▸ hv)
      have hle : k ≤ k' := first_le_of_lookup h (by rwa [hread k' hk', lookup_cons_same])
      obtain rfl : k = k' := le_antisymm hle hle'
      obtain rfl : v = v' := hatk.trans (lookup_cons_same k v' rest')
      have hreadRest : ∀ addr, addr < Config.memorySize → Memory.lookup rest addr = Memory.lookup rest' addr := by
        intro addr haddr
        by_cases hcmp : addr < k + 1
        · rw [lookup_below hrest hcmp, lookup_below hrest' hcmp]
        · have hne : k ≠ addr := by omega
          simpa only [lookup_cons_other v _ hne] using hread addr haddr
      rw [ih hrest hrest' hreadRest]

/-- Settles O39: every address below 65536 is the number of a word. -/
theorem canonicalMemoriesThatReadAlikeAreEqual : Obligations.CanonicalMemoriesThatReadAlikeAreEqual := by
  intro m m' h h' hread
  refine eq_of_lookup_eq h h' fun addr haddr => ?_
  have hnat : (BitVec.ofNat 16 addr).toNat = addr := by
    rw [BitVec.toNat_ofNat]
    exact Nat.mod_eq_of_lt haddr
  rw [← hnat]
  exact hread (BitVec.ofNat 16 addr)

/-! ### The resolver in the formulas of the rules -/

theorem resolve_zeroPage_eq (sw : PtrHiWrap) (idx : IndexedBy) (op8 : Byte) (s : State) :
    resolve sw (.zeroPage idx) (.byte op8) s = some ⟨zeroPageAddr op8 (idxval s idx), false⟩ := by
  rw [resolve_zeroPage, zext16_add_eq_zeroPageAddr]

theorem resolve_absolute_eq (sw : PtrHiWrap) (idx : IndexedBy) (op16 : Word) (s : State) :
    resolve sw (.absolute idx) (.word op16) s =
      some ⟨indexedAddr op16 (idxval s idx), crosses op16 (idxval s idx)⟩ := by
  rw [resolve_absolute, add_zext16_eq_indexedAddr, page_bne_indexedAddr]

theorem resolve_indirectX_eq (op8 : Byte) (s : State) :
    resolve ptrHiWrap (.indirect .x) (.byte op8) s =
      some ⟨pointer s.mem (BitVec.ofNat 8 ((op8.toNat + s.x.toNat) % 256)), false⟩ := by
  rw [resolve_indirectX, readWordZP_eq_pointer, byte_add_eq_ofNat_mod]

theorem resolve_indirectY_eq (op8 : Byte) (s : State) :
    resolve ptrHiWrap (.indirect .y) (.byte op8) s =
      some ⟨indexedAddr (pointer s.mem op8) s.y, crosses (pointer s.mem op8) s.y⟩ := by
  rw [resolve_indirectY, add_zext16_eq_indexedAddr, hi8_bne_indexedAddr, readWordZP_eq_pointer]

/-! ### Page crossings -/

/-- A page is crossed when the low byte carries (R76), also through the top of memory. -/
theorem crosses_iff (base : Word) (v : Byte) : crosses base v = true ↔ 255 < base.toNat % 256 + v.toNat := by
  simp only [crosses, indexedAddr, wrap16, BitVec.toNat_ofNat, decide_eq_true_eq]
  omega

theorem crosses_zero (base : Word) : crosses base 0x00#8 = false := by
  simp [crosses]

/-- Settles O44: the resolver's equations, mode by mode; without an index nothing is added. -/
theorem pageCrossedInThreeModesOnly : Obligations.PageCrossedInThreeModesOnly := by
  constructor
  · intro sw mode o s r hr hcross
    unfold resolve at hr
    split at hr
    next => cases hr; cases hcross
    next => cases hr; cases hcross
    next idx op16 =>
      cases idx with
      | none =>
        obtain rfl := Option.some.inj ((resolve_absolute_eq sw .none op16 s).symm.trans hr)
        exact absurd hcross (by simp [idxval, crosses_zero])
      | x => exact .inl rfl
      | y => exact .inr (.inl rfl)
    next => cases hr; cases hcross
    next => exact .inr (.inr rfl)
    next => cases hr
  · intro sw idx base s r hr
    obtain rfl := Option.some.inj ((resolve_absolute_eq sw idx base s).symm.trans hr)
    exact crosses_iff base (idxval s idx)

end Sys2Proof.Proofs

/-! PROOFS. The results of 41_load.md, 42_store.md, 43_transfer.md and 44_nop.md: each opcode is its family's rule at
the address the resolver gives it, with the cost of its mode. -/

namespace Sys2Proof.Proofs

open Sys2Proof.Machine Sys2Proof.Rules

/-! ### Loads -/

/-- A mnemonic with a target register is a load. -/
theorem family_of_loadTarget {m : Mnemonic} {target : Reg} (h : loadTarget m = some target) : familyOf m = .load := by
  cases m <;> cases h <;> rfl

/-- The family rule of a load, its operand at hand. -/
theorem exec_load (i : Instr) {s : State} {target : Reg} {len : Nat} {r : ReadResult}
    (htarget : loadTarget i.form.mnemonic = some target) (hlen : i.form.mode.length = some len)
    (hr : readOperand ptrHiWrap i.form.mode i.operand s = some r) :
    exec i s = .next (copiedTo target s r.value (1 + len) (loadCost i.form.mode r.pageCrossed)) := by
  obtain ⟨target', len', r', htarget', hlen', hr', hexec⟩ :=
    everyLoadFollowsTheFamilyRule i s (family_of_loadTarget htarget)
  obtain rfl := Option.some.inj (htarget.symm.trans htarget')
  obtain rfl := Option.some.inj (hlen.symm.trans hlen')
  obtain rfl := Option.some.inj (hr.symm.trans hr')
  exact hexec

theorem readOperand_of_resolve {sw : PtrHiWrap} {mode : AddrMode} {o : Operand} {s : State} {r : Resolved}
    (hmode : mode ≠ .immediate) (hr : resolve sw mode o s = some r) :
    readOperand sw mode o s = some ⟨Memory.read s.mem r.effective, r.pageCrossed⟩ := by
  unfold readOperand
  split
  · exact absurd rfl hmode
  · rw [hr, Option.map_some]

/-- A load from memory reads the byte at the resolved address. -/
theorem exec_load_at (i : Instr) {s : State} {target : Reg} {len : Nat} {r : Resolved}
    (htarget : loadTarget i.form.mnemonic = some target) (hlen : i.form.mode.length = some len)
    (hmode : i.form.mode ≠ .immediate) (hr : resolve ptrHiWrap i.form.mode i.operand s = some r) :
    exec i s = .next (copiedTo target s (Memory.read s.mem r.effective) (1 + len)
      (loadCost i.form.mode r.pageCrossed)) :=
  exec_load i htarget hlen (readOperand_of_resolve hmode hr)

theorem resolve_absolute_unindexed (sw : PtrHiWrap) (op16 : Word) (s : State) :
    resolve sw (.absolute .none) (.word op16) s = some ⟨op16, false⟩ := by
  rw [resolve_absolute_eq, idxval, indexedAddr_zero, crosses_zero]

/-- Settles O17: the six modes' resolved addresses and costs, into the accumulator. -/
theorem ldaDirectFormsLoadTheAccumulator : Obligations.LdaDirectFormsLoadTheAccumulator := by
  intro s op8 op16
  exact ⟨exec_load (.ldaImmediate op8) rfl rfl rfl,
    exec_load_at (.ldaZeroPage op8) rfl rfl nofun (resolve_zeroPage_eq _ .none op8 s),
    exec_load_at (.ldaZeroPageX op8) rfl rfl nofun (resolve_zeroPage_eq _ .x op8 s),
    exec_load_at (.ldaAbsolute op16) rfl rfl nofun (resolve_absolute_unindexed _ op16 s),
    exec_load_at (.ldaAbsoluteX op16) rfl rfl nofun (resolve_absolute_eq _ .x op16 s),
    exec_load_at (.ldaAbsoluteY op16) rfl rfl nofun (resolve_absolute_eq _ .y op16 s)⟩

/-- Settles O18: the pointer's word is the address, before or after the index. -/
theorem ldaIndirectFormsLoadTheAccumulator : Obligations.LdaIndirectFormsLoadTheAccumulator := by
  intro s op8
  exact ⟨exec_load_at (.ldaIndirectX op8) rfl rfl nofun (resolve_indirectX_eq op8 s),
    exec_load_at (.ldaIndirectY op8) rfl rfl nofun (resolve_indirectY_eq op8 s)⟩

/-- Settles O19: the five modes' resolved addresses and costs, into X. -/
theorem ldxFormsLoadX : Obligations.LdxFormsLoadX := by
  intro s op8 op16
  exact ⟨exec_load (.ldxImmediate op8) rfl rfl rfl,
    exec_load_at (.ldxZeroPage op8) rfl rfl nofun (resolve_zeroPage_eq _ .none op8 s),
    exec_load_at (.ldxZeroPageY op8) rfl rfl nofun (resolve_zeroPage_eq _ .y op8 s),
    exec_load_at (.ldxAbsolute op16) rfl rfl nofun (resolve_absolute_unindexed _ op16 s),
    exec_load_at (.ldxAbsoluteY op16) rfl rfl nofun (resolve_absolute_eq _ .y op16 s)⟩

/-- Settles O20: the five modes' resolved addresses and costs, into Y. -/
theorem ldyFormsLoadY : Obligations.LdyFormsLoadY := by
  intro s op8 op16
  exact ⟨exec_load (.ldyImmediate op8) rfl rfl rfl,
    exec_load_at (.ldyZeroPage op8) rfl rfl nofun (resolve_zeroPage_eq _ .none op8 s),
    exec_load_at (.ldyZeroPageX op8) rfl rfl nofun (resolve_zeroPage_eq _ .x op8 s),
    exec_load_at (.ldyAbsolute op16) rfl rfl nofun (resolve_absolute_unindexed _ op16 s),
    exec_load_at (.ldyAbsoluteX op16) rfl rfl nofun (resolve_absolute_eq _ .x op16 s)⟩

/-! ### Stores -/

/-- A mnemonic with a source register is a store. -/
theorem family_of_storeSource {m : Mnemonic} {source : Reg} (h : storeSource m = some source) :
    familyOf m = .store := by
  cases m <;> cases h <;> rfl

/-- The family rule of a store, its address at hand. -/
theorem exec_store (i : Instr) {s : State} {source : Reg} {len : Nat} {r : Resolved}
    (hsource : storeSource i.form.mnemonic = some source) (hlen : i.form.mode.length = some len)
    (hr : resolve ptrHiWrap i.form.mode i.operand s = some r) :
    exec i s = .next (stored s r.effective (s.getReg source) (1 + len) (storeCost i.form.mode)) := by
  obtain ⟨source', len', r', hsource', hlen', hr', hexec, -⟩ :=
    everyStoreFollowsTheFamilyRule i s (family_of_storeSource hsource)
  obtain rfl := Option.some.inj (hsource.symm.trans hsource')
  obtain rfl := Option.some.inj (hlen.symm.trans hlen')
  obtain rfl := Option.some.inj (hr.symm.trans hr')
  exact hexec

/-- Settles O23: the five modes' resolved addresses and costs, from the accumulator. -/
theorem staDirectFormsStoreTheAccumulator : Obligations.StaDirectFormsStoreTheAccumulator := by
  intro s op8 op16
  exact ⟨exec_store (.staZeroPage op8) rfl rfl (resolve_zeroPage_eq _ .none op8 s),
    exec_store (.staZeroPageX op8) rfl rfl (resolve_zeroPage_eq _ .x op8 s),
    exec_store (.staAbsolute op16) rfl rfl (resolve_absolute_unindexed _ op16 s),
    exec_store (.staAbsoluteX op16) rfl rfl (resolve_absolute_eq _ .x op16 s),
    exec_store (.staAbsoluteY op16) rfl rfl (resolve_absolute_eq _ .y op16 s)⟩

/-- Settles O24: the pointer's word is the address, before or after the index. -/
theorem staIndirectFormsStoreTheAccumulator : Obligations.StaIndirectFormsStoreTheAccumulator := by
  intro s op8
  exact ⟨exec_store (.staIndirectX op8) rfl rfl (resolve_indirectX_eq op8 s),
    exec_store (.staIndirectY op8) rfl rfl (resolve_indirectY_eq op8 s)⟩

/-- Settles O25: the three modes' resolved addresses and costs, from X. -/
theorem stxFormsStoreX : Obligations.StxFormsStoreX := by
  intro s op8 op16
  exact ⟨exec_store (.stxZeroPage op8) rfl rfl (resolve_zeroPage_eq _ .none op8 s),
    exec_store (.stxZeroPageY op8) rfl rfl (resolve_zeroPage_eq _ .y op8 s),
    exec_store (.stxAbsolute op16) rfl rfl (resolve_absolute_unindexed _ op16 s)⟩

/-- Settles O26: the three modes' resolved addresses and costs, from Y. -/
theorem styFormsStoreY : Obligations.StyFormsStoreY := by
  intro s op8 op16
  exact ⟨exec_store (.styZeroPage op8) rfl rfl (resolve_zeroPage_eq _ .none op8 s),
    exec_store (.styZeroPageX op8) rfl rfl (resolve_zeroPage_eq _ .x op8 s),
    exec_store (.styAbsolute op16) rfl rfl (resolve_absolute_unindexed _ op16 s)⟩

/-! ### Transfers and NOP -/

theorem finish_eq_counted (len c : Nat) (s : State) : finish len c s = counted s len c := by
  rw [counted, ← add_ofNat_eq_wrap16]
  rfl

/-- A mnemonic with a row in R140's table is a transfer. -/
theorem family_of_transferRow {m : Mnemonic} {row : TransferRow} (h : transferRow m = some row) :
    familyOf m = .transfer := by
  cases m <;> cases h <;> rfl

/-- A transfer copies and ends; `Change.apply` says whether Z and N follow. -/
theorem exec_transfer {i : Instr} (s : State) {row : TransferRow} (h : transferRow i.form.mnemonic = some row) :
    exec i s = .next (finish 1 2 (Change.apply (.transfer row) s)) := by
  rw [exec_eq_evaluate, evaluate, family_of_transferRow h]
  simp [runTransfer, evaluateTransfer, complete, finish, Change.apply, form_supported, h]

/-- A copy with Z and N is what a load of the source register would leave. -/
theorem exec_transfer_copiedTo (i : Instr) (s : State) {row : TransferRow}
    (h : transferRow i.form.mnemonic = some row) (hz : row.writesZN = true) :
    exec i s = .next (copiedTo row.dst s (s.getReg row.src) 1 2) := by
  have happly : Change.apply (.transfer row) s = Change.apply (.load row.dst (s.getReg row.src)) s := if_pos hz
  rw [exec_transfer s h, happly, finish_load_eq_copiedTo]

theorem exec_txs (s : State) : exec .txs s = .next { counted s 1 2 with s := s.x } := by
  rw [exec_transfer s rfl, finish_eq_counted]
  rfl

/-- Settles O29: five copies with Z and N, and TXS. -/
theorem transfersCopyTheirRegisters : Obligations.TransfersCopyTheirRegisters :=
  fun s => ⟨exec_transfer_copiedTo .tax s rfl rfl, exec_transfer_copiedTo .tay s rfl rfl,
    exec_transfer_copiedTo .tsx s rfl rfl, exec_transfer_copiedTo .txa s rfl rfl, exec_txs s,
    exec_transfer_copiedTo .tya s rfl rfl⟩

/-- TXS has the one row that leaves the flags. -/
theorem writesZN_of_transferRow {m : Mnemonic} {row : TransferRow} (h : transferRow m = some row) (hne : m ≠ .txs) :
    row.writesZN = true := by
  cases m <;> cases h <;> trivial

theorem evaluateAccesses_eq_nil {sw : PtrHiWrap} {f : Form} (o : Operand) (s : State)
    (hload : familyOf f.mnemonic ≠ .load) (hstore : familyOf f.mnemonic ≠ .store) :
    evaluateAccesses sw f o s = [] := by
  unfold evaluateAccesses
  split
  · contradiction
  · contradiction
  · rfl

/-- Settles O28: TXS by its own equation, the others as a copy with Z and N. -/
theorem everyTransferFollowsTheFamilyRule : Obligations.EveryTransferFollowsTheFamilyRule := by
  intro i s hfamily
  obtain ⟨row, hrow⟩ : ∃ row, transferRow i.form.mnemonic = some row := by
    cases hm : i.form.mnemonic <;> rw [hm] at hfamily <;> cases hfamily <;> exact ⟨_, rfl⟩
  refine ⟨row, hrow, ?_, evaluateAccesses_eq_nil _ s (by simp [hfamily]) (by simp [hfamily])⟩
  split
  next htxs => rw [(mnemonic_eq_txs_iff i).1 htxs, exec_txs]
  next hne => exact exec_transfer_copiedTo i s hrow (writesZN_of_transferRow hrow hne)

theorem exec_nop (s : State) : exec .nop s = .next (counted s 1 2) := by
  rw [← finish_eq_counted]
  rfl

/-- Settles O30: NOP's evaluator advances and nothing else, and its family makes no access. -/
theorem nopOnlyAdvances : Obligations.NopOnlyAdvances :=
  ⟨rfl, fun s => ⟨exec_nop s, evaluateAccesses_eq_nil _ s nofun nofun⟩⟩

end Sys2Proof.Proofs

/-! PROOFS. The invariants of 70_reset_and_hazards.md. Each of the four effects an instruction can have (`Effect`) keeps
a canonical memory and never sets Z and N together; the commit after it moves the counters by one instruction of 2 to 6
cycles. -/

namespace Sys2Proof.Proofs

open Sys2Proof.Machine Sys2Proof.Rules

/-! ### The fields after an instruction -/

@[simp] theorem finish_mem (len c : Nat) (u : State) : (finish len c u).mem = u.mem := rfl
@[simp] theorem finish_getReg (len c : Nat) (u : State) (r : Reg) : (finish len c u).getReg r = u.getReg r := by
  cases r <;> rfl
@[simp] theorem finish_totalCycles (len c : Nat) (u : State) :
    (finish len c u).totalCycles = u.totalCycles + c := rfl
@[simp] theorem finish_instructionsExecuted (len c : Nat) (u : State) :
    (finish len c u).instructionsExecuted = u.instructionsExecuted + 1 := rfl

/-! ### What the four effects keep -/

theorem effect_totalCycles {s u : State} (h : Effect s u) : u.totalCycles = s.totalCycles := by
  cases h <;> simp

theorem effect_instructionsExecuted {s u : State} (h : Effect s u) :
    u.instructionsExecuted = s.instructionsExecuted := by
  cases h <;> simp

theorem effect_memoryCanonical {s u : State} (h : Effect s u) (hs : Safety.memoryCanonical s) :
    Safety.memoryCanonical u := by
  cases h with
  | loads target v => simpa [Safety.memoryCanonical] using hs
  | stores addr source => exact Memory.wf_write addr _ hs
  | copies source target => simpa [Safety.memoryCanonical] using hs
  | nothing => exact hs

/-- A zero byte has bit 7 clear. -/
theorem withZN_not_both (f : Flags) (v : Byte) : ((withZN f v).z && (withZN f v).n) = false := by
  simp only [withZN, Bool.and_eq_false_imp, decide_eq_true_eq, decide_eq_false_iff_not]
  omega

theorem effect_notZeroAndNegative {s u : State} (h : Effect s u) (hs : Safety.notZeroAndNegative s) :
    Safety.notZeroAndNegative u := by
  cases h with
  | loads target v =>
    rw [Safety.notZeroAndNegative, State.setZN_flags, flagsZN_eq_withZN]
    exact withZN_not_both _ v
  | stores addr source => exact hs
  | copies source target => simpa [Safety.notZeroAndNegative] using hs
  | nothing => exact hs

/-! ### What a step keeps -/

/-- A completed step has one of the four effects, then moves `pc` and counts 2 to 6 cycles. -/
theorem step_effect {s t : State} (h : step s = .next t) :
    ∃ u len c, Effect s u ∧ 2 ≤ c ∧ c ≤ 6 ∧ t = finish len c u := by
  obtain ⟨i, -, hexec⟩ := step_eq_next h
  rw [exec_eq_evaluate] at hexec
  exact evaluate_eq_next hexec

/-- Settles O55: the effect leaves the counters, and the commit grows them by the instruction's cost and by 1. -/
theorem everyCompletedStepCostsTwoToSix : Obligations.EveryCompletedStepCostsTwoToSix := by
  intro s t h
  obtain ⟨u, len, c, heffect, hlo, hhi, rfl⟩ := step_effect h
  rw [finish_totalCycles, finish_instructionsExecuted, effect_totalCycles heffect, effect_instructionsExecuted heffect]
  omega

/-- Settles O56: memory and flags by the effect, the counters by the cost of one instruction. -/
theorem stepKeepsTheInvariant : Obligations.StepKeepsTheInvariant := by
  rintro s t ⟨hmem, hflags, hcounters⟩ h
  obtain ⟨hlo, hhi, hcount⟩ := everyCompletedStepCostsTwoToSix s t h
  obtain ⟨u, len, c, heffect, -, -, rfl⟩ := step_effect h
  have hmem' := effect_memoryCanonical heffect hmem
  have hflags' := effect_notZeroAndNegative heffect hflags
  refine ⟨hmem', hflags', ?_⟩
  simp only [Safety.countersInStep] at hcounters ⊢
  omega

/-- Settles O57: an empty memory is canonical, and the flags and counters are those the model names. -/
theorem resetHasTheInvariant : Obligations.ResetHasTheInvariant :=
  ⟨Memory.wf_reset, rfl, le_rfl, le_rfl⟩

/-! ### What the host keeps -/

/-- A stop leaves the state of the last completed step, so a property that every completed step keeps is kept by
`step(n)`. -/
theorem stepN_keeps {P : State → Prop} (hstep : ∀ s t, P s → step s = .next t → P t) (n : Nat) (s : State)
    (hs : P s) : P (stepN n s).1 := by
  induction n generalizing s with
  | zero => exact hs
  | succ n ih =>
    unfold stepN
    split
    next t ht => exact ih t (hstep s t hs ht)
    next => exact hs
    next => exact hs

/-- Settles O58: `step(n)` by induction on `n`, `load` byte by byte, and the other commands change no part the
invariant is about or nothing at all. -/
theorem hostCommandsKeepTheInvariant : Obligations.HostCommandsKeepTheInvariant := by
  intro c s hs
  cases c with
  | reset => exact hs
  | step n => exact stepN_keeps stepKeepsTheInvariant n s hs
  | load addr bytes => exact ⟨Memory.wf_writeBytes addr bytes hs.1, hs.2⟩
  | writeByte addr v => exact ⟨Memory.wf_write addr v hs.1, hs.2⟩
  | readByte addr | readWord addr | inspectState | statistics => exact hs

end Sys2Proof.Proofs

/-! PROOFS. The frames of 10_state.md: which memory byte and which register an instruction can change, and that nothing
it does depends on the counters. -/

namespace Sys2Proof.Proofs

open Sys2Proof.Machine Sys2Proof.Rules

/-! ### Memory -/

theorem read_write (m : Memory) (addr other : Word) (v : Byte) :
    Memory.read (Memory.write m addr v) other = if other = addr then v else Memory.read m other := by
  split
  next heq => rw [heq, read_write_same]
  next hne => rw [read_write_other m v hne]

/-- A mnemonic without a source register makes no change to memory. -/
theorem Change.Of.apply_mem {m : Mnemonic} {ch : Change} (h : Change.Of m ch) (hsource : storeSource m = none)
    (s : State) : (ch.apply s).mem = s.mem := by
  cases ch with
  | load target v => simp [Change.apply]
  | store addr source => cases hsource.symm.trans h
  | transfer row => cases hz : row.writesZN <;> simp [Change.apply, hz]
  | nothing => rfl

/-- What is not a store leaves memory as it was. -/
theorem exec_mem_of_not_store {i : Instr} {s t : State} (hsource : storeSource i.form.mnemonic = none)
    (h : exec i s = .next t) : t.mem = s.mem := by
  obtain ⟨ch, c, hof, hrun⟩ := exec_change i s
  cases h.symm.trans (hrun s (.refl s))
  rw [finish_mem, hof.apply_mem hsource]

/-- A store writes its source register at its resolved address. -/
theorem exec_mem_of_store {i : Instr} {s t : State} {source : Reg} {r : Resolved}
    (hsource : storeSource i.form.mnemonic = some source)
    (hr : resolve ptrHiWrap i.form.mode i.operand s = some r) (h : exec i s = .next t) :
    t.mem = Memory.write s.mem r.effective (s.getReg source) := by
  cases h.symm.trans (exec_store i hsource (mode_length_eq i) hr)
  rfl

theorem resolve_of_store {i : Instr} {source : Reg} (hsource : storeSource i.form.mnemonic = some source) (s : State) :
    ∃ r, resolve ptrHiWrap i.form.mode i.operand s = some r := by
  obtain ⟨-, -, r, -, -, hr, -⟩ := everyStoreFollowsTheFamilyRule i s (family_of_storeSource hsource)
  exact ⟨r, hr⟩

/-- Settles O27: a store's memory is one write, and any other instruction's is the one before. -/
theorem onlyStoresChangeMemoryAndOnlyOneByte : Obligations.OnlyStoresChangeMemoryAndOnlyOneByte := by
  intro i s
  obtain ⟨t, ht⟩ := exec_completes i s
  refine ⟨t, ht, ?_⟩
  cases hsource : storeSource i.form.mnemonic with
  | none =>
    intro addr
    rw [exec_mem_of_not_store hsource ht]
  | some source =>
    obtain ⟨r, hr⟩ := resolve_of_store hsource s
    rw [hr]
    intro addr
    rw [exec_mem_of_store hsource hr ht, read_write]

/-! ### Registers -/

theorem destination_of_loadTarget {m : Mnemonic} {target : Reg} (h : loadTarget m = some target) :
    destination m = some target := by
  cases m <;> cases h <;> rfl

theorem destination_of_transferRow {m : Mnemonic} {row : TransferRow} (h : transferRow m = some row) :
    destination m = some row.dst := by
  cases m <;> cases h <;> rfl

/-- The tables of the families name the access table's destination, and a change writes no other register. -/
theorem Change.Of.apply_getReg {m : Mnemonic} {ch : Change} (h : Change.Of m ch) (s : State) {r : Reg}
    (hr : destination m ≠ some r) : (ch.apply s).getReg r = s.getReg r := by
  cases ch with
  | load target v =>
    have hne : r ≠ target := fun heq => hr (heq ▸ destination_of_loadTarget h)
    rw [Change.apply, State.getReg_setZN, State.getReg_setReg_other s target v r hne]
  | store addr source => exact State.getReg_writeByte s r _ addr
  | transfer row =>
    have hne : r ≠ row.dst := fun heq => hr (heq ▸ destination_of_transferRow h)
    cases hz : row.writesZN <;> simp [Change.apply, hz, State.getReg_setReg_other s row.dst _ r hne]
  | nothing => rfl

/-- A change is one of the four effects, so what every effect keeps it keeps. -/
theorem Change.effect (ch : Change) (s : State) : Effect s (ch.apply s) := by
  cases ch with
  | load target v => exact .loads target v
  | store addr source => exact .stores addr source
  | transfer row =>
    rw [Change.apply]
    split
    next => exact .loads row.dst (s.getReg row.src)
    next => exact .copies row.src row.dst
  | nothing => exact .nothing

/-- Settles O33: the instruction's change is one of its mnemonic's table, and the commit counts it. -/
theorem onlyTheDestinationRegisterChanges : Obligations.OnlyTheDestinationRegisterChanges := by
  intro i s
  obtain ⟨ch, c, hof, hrun⟩ := exec_change i s
  refine ⟨_, hrun s (.refl s), fun r hr => ?_, ?_⟩
  · rw [finish_getReg, hof.apply_getReg s hr]
  · rw [finish_instructionsExecuted, effect_instructionsExecuted (ch.effect s)]

/-! ### The counters -/

/-- `s` with other counters. -/
def withCounters (s : State) (c n : Nat) : State := { s with totalCycles := c, instructionsExecuted := n }

theorem SameAddressing.withCounters (s : State) (c n : Nat) : SameAddressing s (withCounters s c n) :=
  ⟨rfl, rfl, rfl, rfl⟩

theorem getReg_withCounters (s : State) (c n : Nat) (r : Reg) : (withCounters s c n).getReg r = s.getReg r := by
  cases r <;> rfl

theorem setReg_withCounters (s : State) (c n : Nat) (r : Reg) (v : Byte) :
    (withCounters s c n).setReg r v = withCounters (s.setReg r v) c n := by
  cases r <;> rfl

/-- A change does the same whatever the counters are. -/
theorem Change.apply_withCounters (ch : Change) (s : State) (c n : Nat) :
    ch.apply (withCounters s c n) = withCounters (ch.apply s) c n := by
  cases ch with
  | load target v =>
    rw [Change.apply, setReg_withCounters]
    rfl
  | store addr source =>
    rw [Change.apply, getReg_withCounters]
    rfl
  | transfer row =>
    rw [Change.apply, getReg_withCounters, setReg_withCounters]
    cases hz : row.writesZN <;> simp only [Change.apply, hz] <;> rfl
  | nothing => rfl

/-- An instruction adds one instruction and its cycles to whatever counters it finds. -/
theorem exec_withCounters (i : Instr) (s : State) :
    ∃ t d, exec i s = .next t ∧ t.totalCycles = s.totalCycles + d ∧
      ∀ c n, exec i (withCounters s c n) = .next (withCounters t (c + d) (n + 1)) := by
  obtain ⟨ch, d, -, hrun⟩ := exec_change i s
  refine ⟨_, d, hrun s (.refl s), by rw [finish_totalCycles, effect_totalCycles (ch.effect s)], fun c n => ?_⟩
  rw [hrun _ (.withCounters s c n), Change.apply_withCounters]
  rfl

/-- Settles O35: the fetch reads no counter, and the fetched instruction adds to whatever it finds. -/
theorem noStepReadsTheCounters : Obligations.NoStepReadsTheCounters := by
  intro s c n
  have hfetch : fetchDecode (withCounters s c n) = fetchDecode s := rfl
  cases hi : fetchDecode s with
  | instr i =>
    obtain ⟨t, d, ht, hd, hrun⟩ := exec_withCounters i s
    rw [step_of_fetchDecode hi, ht]
    exact ⟨d, hd, (step_of_fetchDecode (hfetch.trans hi)).trans (hrun c n)⟩
  | fault f =>
    rw [step_of_fetchDecode_fault hi]
    exact step_of_fetchDecode_fault (hfetch.trans hi)

end Sys2Proof.Proofs

/-! PROOFS. The statements of 20_memory.md on the accesses of a step. A step reads its instruction's bytes, the cells
the resolver reads and a load's data, and what it does is computed from these; its one write is a store's. -/

namespace Sys2Proof.Proofs

open Sys2Proof.Machine Sys2Proof.Rules

/-! ### The list of accesses -/

theorem stepAccesses_of_fetchDecode {s : State} {i : Instr} (h : fetchDecode s = .instr i) :
    stepAccesses s = .read s.pc :: evaluateAccesses ptrHiWrap i.form i.operand s := by
  rw [stepAccesses, h]

theorem stepAccesses_of_fetchDecode_fault {s : State} {f : Fault} (h : fetchDecode s = .fault f) :
    stepAccesses s = [.read s.pc] := by
  rw [stepAccesses, h]

/-- What is not a store only reads. -/
theorem evaluateAccesses_of_not_store {sw : PtrHiWrap} {f : Form} (o : Operand) (s : State)
    (h : storeSource f.mnemonic = none) : ∃ reads : List Word, evaluateAccesses sw f o s = reads.map Access.read := by
  unfold evaluateAccesses
  rw [h]
  split
  next r _ _ => exact ⟨resolveReads sw f.mode o s ++ [r.effective], by simp⟩
  next heq => cases heq
  next => exact ⟨[], rfl⟩

/-- Settles O45: what is not a store reads and leaves memory; a store reads, then makes the one write. -/
theorem accessesAreReadsThenAtMostOneWrite : Obligations.AccessesAreReadsThenAtMostOneWrite := by
  intro s t h
  obtain ⟨i, hi, hexec⟩ := step_eq_next h
  rw [stepAccesses_of_fetchDecode hi]
  cases hsource : storeSource i.form.mnemonic with
  | none =>
    obtain ⟨reads, hreads⟩ := evaluateAccesses_of_not_store (sw := ptrHiWrap) i.operand s hsource
    exact ⟨reads, .inl ⟨by rw [hreads, List.map_cons], exec_mem_of_not_store hsource hexec⟩⟩
  | some source =>
    obtain ⟨r, hr⟩ := resolve_of_store hsource s
    refine ⟨resolveReads ptrHiWrap i.form.mode i.operand s, .inr ⟨r.effective, s.getReg source, ?_,
      exec_mem_of_store hsource hr hexec⟩⟩
    rw [evaluateAccesses_of_store (family_of_storeSource hsource) hr hsource, List.map_cons, List.cons_append]

/-! ### The fetch reads the instruction's bytes -/

/-- Every operand byte is read, before any other access. -/
theorem operand_bytes_read (i : Instr) (s : State) :
    ∃ others, evaluateAccesses ptrHiWrap i.form i.operand s =
      (List.range (encodeOperand i.operand).length).map (fun k => .read (s.pc + BitVec.ofNat 16 (1 + k))) ++
        others := by
  cases i <;> exact ⟨_, rfl⟩

theorem instruction_byte_read {s : State} {i : Instr} (h : fetchDecode s = .instr i) {k : Nat}
    (hk : k < (encode i).length) : Access.read (wrap16 (s.pc.toNat + k)) ∈ stepAccesses s := by
  rw [stepAccesses_of_fetchDecode h, ← add_ofNat_eq_wrap16]
  cases k with
  | zero => exact List.mem_cons.2 (.inl (congrArg Access.read (BitVec.add_zero _)))
  | succ k =>
    obtain ⟨others, hothers⟩ := operand_bytes_read i s
    rw [length_encode_of_mode i (mode_length_eq i)] at hk
    rw [hothers]
    refine List.mem_cons_of_mem _ (List.mem_append_left _ (List.mem_map.2 ⟨k, List.mem_range.2 (by omega), ?_⟩))
    rw [Nat.add_comm]

/-- The bytes of a fetched instruction are its encoding (`decodedBytesAreTheEncoding`). -/
theorem read_of_fetchDecode {s : State} {i : Instr} (h : fetchDecode s = .instr i) (k : Nat)
    (hk : k < (encode i).length) : Memory.read s.mem (wrap16 (s.pc.toNat + k)) = (encode i)[k] := by
  unfold fetchDecode at h
  split at h
  next i' rest hd =>
    cases h
    have hbytes := decodedBytesAreTheEncoding _ _ _ hd
    have hk3 : k < (fetchBytes s).length := Nat.lt_of_lt_of_le hk (length_encode_le_three i)
    rw [← fetchBytes_getElem s k hk3]
    simp only [hbytes, List.getElem_append_left hk]
  next => cases h

/-! ### Another memory that agrees on the bytes read -/

/-- `m` holds what `s` holds at every address a list of accesses reads. -/
def AgreesOnReads (accesses : List Access) (s : State) (m : Memory) : Prop :=
  ∀ addr : Word, Access.read addr ∈ accesses → Memory.read m addr = Memory.read s.mem addr

theorem fetchDecode_withMemory {s : State} {m : Memory} {i : Instr} (h : fetchDecode s = .instr i)
    (hagree : AgreesOnReads (stepAccesses s) s m) : fetchDecode (withMemory s m) = .instr i :=
  fetchDecode_of_encode fun k hk => (hagree _ (instruction_byte_read h hk)).trans (read_of_fetchDecode h k hk)

theorem resolveReads_withMemory (sw : PtrHiWrap) (mode : AddrMode) (o : Operand) (s : State) (m : Memory) :
    resolveReads sw mode o (withMemory s m) = resolveReads sw mode o s := by
  unfold resolveReads
  split <;> rfl

theorem readWordZP_congr {sw : PtrHiWrap} {m m' : Memory} {p : Byte}
    (hlo : Memory.read m (zext16 p) = Memory.read m' (zext16 p))
    (hhi : Memory.read m (pointerHighAddr sw p) = Memory.read m' (pointerHighAddr sw p)) :
    Memory.readWordZP sw m p = Memory.readWordZP sw m' p := by
  rw [Memory.readWordZP, Memory.readWordZP, hlo, hhi]

/-- An address depends on no byte of memory but those of its pointer. -/
theorem resolve_withMemory {sw : PtrHiWrap} {mode : AddrMode} {o : Operand} {s : State} {m : Memory}
    (hagree : AgreesOnReads ((resolveReads sw mode o s).map .read) s m) :
    resolve sw mode o (withMemory s m) = resolve sw mode o s := by
  have hread : ∀ addr ∈ resolveReads sw mode o s, Memory.read m addr = Memory.read s.mem addr :=
    fun addr h => hagree addr (List.mem_map_of_mem h)
  unfold resolve
  split
  next => rfl
  next => rfl
  next => rfl
  next op8 =>
    have hword : Memory.readWordZP sw m (pointerX op8 s) = Memory.readWordZP sw s.mem (pointerX op8 s) :=
      readWordZP_congr (hread _ (by simp [resolveReads])) (hread _ (by simp [resolveReads]))
    exact congrArg (fun w => some (Resolved.mk w false)) hword
  next op8 =>
    have hword : Memory.readWordZP sw m op8 = Memory.readWordZP sw s.mem op8 :=
      readWordZP_congr (hread _ (by simp [resolveReads])) (hread _ (by simp [resolveReads]))
    rw [resolveIndirectY, resolveIndirectY, withMemory, hword]
  next => rfl

/-- A read operand depends on no byte of memory but those of its pointer and the byte itself. -/
theorem readOperand_withMemory {sw : PtrHiWrap} {mode : AddrMode} {o : Operand} {s : State} {m : Memory} {r : Resolved}
    (hr : resolve sw mode o s = some r) (hr' : resolve sw mode o (withMemory s m) = some r)
    (hdata : Memory.read m r.effective = Memory.read s.mem r.effective) :
    readOperand sw mode o (withMemory s m) = readOperand sw mode o s := by
  unfold readOperand
  split
  next => rfl
  next =>
    rw [hr, hr', Option.map_some, Option.map_some, ← hdata]
    rfl

theorem getReg_withMemory (s : State) (m : Memory) (r : Reg) : (withMemory s m).getReg r = s.getReg r := by
  cases r <;> rfl

theorem copiedTo_withMemory (r : Reg) (s : State) (m : Memory) (v : Byte) (len c : Nat) :
    copiedTo r (withMemory s m) v len c = withMemory (copiedTo r s v len c) m := by
  cases r <;> rfl

theorem stored_withMemory (s : State) (m : Memory) (addr : Word) (v : Byte) (len c : Nat) :
    stored (withMemory s m) addr v len c = withMemory (stored s addr v len c) (Memory.write m addr v) := rfl

theorem applyWrites_reads_append (reads : List Word) (rest : List Access) (m : Memory) :
    applyWrites (reads.map .read ++ rest) m = applyWrites rest m := by
  induction reads with
  | nil => rfl
  | cons addr reads ih => exact ih

/-! ### The step from another memory -/

/-- The instruction has the same accesses from `m`, and the same effect with its writes applied to `m`. -/
def SameFrom (i : Instr) (s : State) (m : Memory) : Prop :=
  evaluateAccesses ptrHiWrap i.form i.operand (withMemory s m) = evaluateAccesses ptrHiWrap i.form i.operand s ∧
  ∃ t, exec i s = .next t ∧
    exec i (withMemory s m) = .next (withMemory t (applyWrites (evaluateAccesses ptrHiWrap i.form i.operand s) m))

theorem resolve_of_load {i : Instr} (hload : familyOf i.form.mnemonic = .load) (s : State) :
    ∃ r, resolve ptrHiWrap i.form.mode i.operand s = some r := by
  cases i <;> cases hload <;> exact ⟨_, rfl⟩

/-- A load accesses what its resolver reads, then reads its data. -/
theorem evaluateAccesses_of_load {sw : PtrHiWrap} {f : Form} {o : Operand} {s : State} {r : Resolved}
    (hload : familyOf f.mnemonic = .load) (hr : resolve sw f.mode o s = some r) :
    evaluateAccesses sw f o s = (resolveReads sw f.mode o s).map .read ++ [.read r.effective] := by
  rw [evaluateAccesses, hload, hr]

theorem load_sameFrom {i : Instr} {s : State} {m : Memory} (hload : familyOf i.form.mnemonic = .load)
    (hagree : AgreesOnReads (evaluateAccesses ptrHiWrap i.form i.operand s) s m) : SameFrom i s m := by
  obtain ⟨r, hr⟩ := resolve_of_load hload s
  rw [evaluateAccesses_of_load hload hr] at hagree
  have hr' := (resolve_withMemory fun addr h => hagree addr (List.mem_append_left _ h)).trans hr
  have hdata := hagree r.effective (List.mem_append_right _ List.mem_cons_self)
  obtain ⟨target, len, b, htarget, hlen, hb, hexec⟩ := everyLoadFollowsTheFamilyRule i s hload
  have hexec' := exec_load i htarget hlen ((readOperand_withMemory hr hr' hdata).trans hb)
  refine ⟨?_, _, hexec, ?_⟩
  · rw [evaluateAccesses_of_load hload hr', evaluateAccesses_of_load hload hr, resolveReads_withMemory]
  · rw [hexec', copiedTo_withMemory, evaluateAccesses_of_load hload hr, applyWrites_reads_append]
    rfl

theorem store_sameFrom {i : Instr} {s : State} {m : Memory} (hstore : familyOf i.form.mnemonic = .store)
    (hagree : AgreesOnReads (evaluateAccesses ptrHiWrap i.form i.operand s) s m) : SameFrom i s m := by
  obtain ⟨source, len, r, hsource, hlen, hr, hexec, haccesses⟩ := everyStoreFollowsTheFamilyRule i s hstore
  rw [haccesses] at hagree
  have hr' := (resolve_withMemory fun addr h => hagree addr (List.mem_append_left _ h)).trans hr
  refine ⟨?_, _, hexec, ?_⟩
  · rw [evaluateAccesses_of_store hstore hr' hsource, haccesses, resolveReads_withMemory, getReg_withMemory]
  · rw [exec_store i hsource hlen hr', getReg_withMemory, stored_withMemory, haccesses, applyWrites_reads_append]
    rfl

theorem transfer_sameFrom {i : Instr} (s : State) (m : Memory) (htransfer : familyOf i.form.mnemonic = .transfer) :
    SameFrom i s m := by
  obtain ⟨row, hrow, hexec, haccesses⟩ := everyTransferFollowsTheFamilyRule i s htransfer
  obtain ⟨row', hrow', hexec', haccesses'⟩ := everyTransferFollowsTheFamilyRule i (withMemory s m) htransfer
  obtain rfl := Option.some.inj (hrow.symm.trans hrow')
  refine ⟨haccesses'.trans haccesses.symm, _, hexec, ?_⟩
  rw [hexec', haccesses, copiedTo_withMemory, getReg_withMemory]
  split <;> rfl

theorem nop_sameFrom (s : State) (m : Memory) : SameFrom .nop s m :=
  ⟨rfl, _, exec_nop s, exec_nop (withMemory s m)⟩

theorem exec_sameFrom {i : Instr} {s : State} {m : Memory}
    (hagree : AgreesOnReads (evaluateAccesses ptrHiWrap i.form i.operand s) s m) : SameFrom i s m := by
  cases hfamily : familyOf i.form.mnemonic with
  | load => exact load_sameFrom hfamily hagree
  | store => exact store_sameFrom hfamily hagree
  | transfer => exact transfer_sameFrom s m hfamily
  | noOp =>
    obtain rfl : i = .nop := by
      cases i <;> cases hfamily
      rfl
    exact nop_sameFrom s m

/-- Settles O46: the fetch finds the same instruction or the same undefined byte, and each family does the same from the
other memory. -/
theorem stepDependsOnlyOnTheBytesItReads : Obligations.StepDependsOnlyOnTheBytesItReads := by
  intro s m hagree
  cases hop : decodeOpcode (Memory.read s.mem s.pc) with
  | none =>
    have hfault := fetchDecode_of_undefined hop
    have hpc : Memory.read m s.pc = Memory.read s.mem s.pc :=
      hagree s.pc (by rw [stepAccesses_of_fetchDecode_fault hfault]; exact List.mem_cons_self)
    have hfault' : fetchDecode (withMemory s m) = .fault (.decodeFailure s.pc (Memory.read s.mem s.pc)) := by
      rw [← hpc] at hop ⊢
      exact fetchDecode_of_undefined (s := withMemory s m) hop
    rw [stepAccesses_of_fetchDecode_fault hfault, step_of_fetchDecode_fault hfault]
    exact ⟨stepAccesses_of_fetchDecode_fault hfault', step_of_fetchDecode_fault hfault'⟩
  | some f =>
    obtain ⟨i, hi⟩ := fetchDecode_of_defined hop
    have hi' := fetchDecode_withMemory hi hagree
    rw [stepAccesses_of_fetchDecode hi] at hagree
    obtain ⟨haccesses, t, ht, ht'⟩ := exec_sameFrom fun addr h => hagree addr (List.mem_cons_of_mem _ h)
    rw [stepAccesses_of_fetchDecode hi, stepAccesses_of_fetchDecode hi', haccesses, step_of_fetchDecode hi, ht]
    exact ⟨rfl, (step_of_fetchDecode hi').trans ht'⟩

/-! ### A stored byte that is fetched -/

/-- Settles O47: the write is read back at the next `pc`, and a byte that is a whole encoding is what runs next. -/
theorem storedByteIsFetchedNext : Obligations.StoredByteIsFetchedNext := by
  intro i s t source r hsource hr hexec hpc
  have hread : Memory.read t.mem t.pc = s.getReg source := by
    rw [exec_mem_of_store hsource hr hexec, hpc, read_write_same]
  exact ⟨congrArg some hread, fun j hj => step_of_one_byte hj hread⟩

end Sys2Proof.Proofs

/-! PROOFS. The statements of 50_step_and_host.md on the host's commands. -/

namespace Sys2Proof.Proofs

open Sys2Proof.Machine Sys2Proof.Rules

/-! ### step(n) -/

@[simp] theorem stepN_zero (s : State) : stepN 0 s = (s, .completed) := rfl

theorem stepN_of_next {s t : State} (h : step s = .next t) (n : Nat) : stepN (n + 1) s = stepN n t := by
  rw [stepN, h]

theorem stepN_of_fault {s : State} {f : Fault} (h : step s = .fault f) (n : Nat) :
    stepN (n + 1) s = (s, .faulted f) := by
  rw [stepN, h]

/-- A step completes or faults: it refuses nothing (`everyStepCompletesOrIsADecodeFailure`). -/
theorem step_next_or_fault (s : State) : (∃ t, step s = .next t) ∨ ∃ f, step s = .fault f := by
  obtain ⟨-, t, ht⟩ | ⟨-, hfault⟩ := everyStepCompletesOrIsADecodeFailure s
  · exact .inl ⟨t, ht⟩
  · exact .inr ⟨_, hfault⟩

theorem stepN_counts {n : Nat} {s : State} (h : (stepN n s).2 = .completed) :
    (stepN n s).1.instructionsExecuted = s.instructionsExecuted + n := by
  induction n generalizing s with
  | zero => rfl
  | succ n ih =>
    obtain ⟨t, ht⟩ | ⟨f, hf⟩ := step_next_or_fault s
    · obtain ⟨-, -, hcount⟩ := everyCompletedStepCostsTwoToSix s t ht
      rw [stepN_of_next ht] at h ⊢
      rw [ih h, hcount]
      omega
    · rw [stepN_of_fault hf] at h
      cases h

/-- Settles O50, by induction on the first count; each completed step counts one instruction. -/
theorem stepCommandIsRepeatedSteps : Obligations.StepCommandIsRepeatedSteps := by
  refine ⟨fun m n s => ?_, fun _ _ => stepN_counts⟩
  induction m generalizing s with
  | zero => rw [Nat.zero_add, stepN_zero]
  | succ m ih =>
    rw [Nat.succ_add]
    obtain ⟨t, ht⟩ | ⟨f, hf⟩ := step_next_or_fault s
    · rw [stepN_of_next ht, stepN_of_next ht, ih]
    · rw [stepN_of_fault hf, stepN_of_fault hf]

theorem hostCommand_step (n : Nat) (s : State) :
    hostCommand (.step n) s = ((stepN n s).1, .report (stepN n s).2) := rfl

/-- Settles O51: the state a fault leaves is the one it began in, which faults again. -/
theorem faultChangesNothingAndRecurs : Obligations.FaultChangesNothingAndRecurs := by
  intro s f m n h
  have hstop : ∀ k, hostCommand (.step (k + 1)) s = (s, .report (.faulted f)) := fun k => by
    rw [hostCommand_step, stepN_of_fault h]
  exact ⟨hstop m, by rw [hstop m, hstop n]⟩

/-- The byte `0xEA` at `pc` is the whole encoding of NOP (passage G1, log 7). -/
theorem step_of_nop {s : State} (h : Memory.read s.mem s.pc = 0xEA) : step s = .next (counted s 1 2) :=
  (step_of_one_byte nopOnlyAdvances.1 h).trans (exec_nop s)

theorem counted_thrice (s : State) : counted (counted (counted s 1 2) 1 2) 1 2 =
    { s with
      pc := wrap16 (s.pc.toNat + 3)
      totalCycles := s.totalCycles + 6
      instructionsExecuted := s.instructionsExecuted + 3 } := by
  simp [counted, wrap16_wrap16_add, Nat.add_assoc]

/-- Settles O52: NOP writes nothing, so each NOP leaves the next one in place. -/
theorem threeNopsAdvanceByThree : Obligations.ThreeNopsAdvanceByThree := by
  intro s h0 h1 h2
  have hstep1 := step_of_nop h0
  have hstep2 : step (counted s 1 2) = .next (counted (counted s 1 2) 1 2) := step_of_nop h1
  have hpc : (counted (counted s 1 2) 1 2).pc = wrap16 (s.pc.toNat + 2) := wrap16_wrap16_add (s.pc.toNat + 1) 1
  have hstep3 := step_of_nop (s := counted (counted s 1 2) 1 2) (by rw [hpc]; exact h2)
  rw [hostCommand_step, stepN_of_next hstep1, stepN_of_next hstep2, stepN_of_next hstep3, stepN_zero, counted_thrice]

/-! ### load and write_byte -/

theorem add_one_add_ofNat (addr : Word) (k : Nat) : addr + 1 + BitVec.ofNat 16 k = addr + BitVec.ofNat 16 (k + 1) := by
  rw [BitVec.add_assoc, Nat.add_comm k 1, BitVec.ofNat_add]
  rfl

/-- A contiguous write changes no cell outside its range. -/
theorem read_writeBytes_other {m : Memory} {addr other : Word} {bytes : List Byte}
    (h : ∀ k, k < bytes.length → other ≠ addr + BitVec.ofNat 16 k) :
    Memory.read (Memory.writeBytes m addr bytes) other = Memory.read m other := by
  induction bytes generalizing m addr with
  | nil => rfl
  | cons b bs ih =>
    have hfirst : other ≠ addr := by simpa using h 0 (Nat.succ_pos _)
    rw [Memory.writeBytes, ih fun k hk => ?_, read_write_other m b hfirst]
    rw [add_one_add_ofNat]
    exact h (k + 1) (Nat.succ_lt_succ hk)

/-- A byte is read back unless a later one went to the same cell. -/
theorem read_writeBytes_last {m : Memory} {addr : Word} {bytes : List Byte} {k : Nat} (hk : k < bytes.length)
    (h : ∀ j, k < j → j < bytes.length → addr + BitVec.ofNat 16 j ≠ addr + BitVec.ofNat 16 k) :
    Memory.read (Memory.writeBytes m addr bytes) (addr + BitVec.ofNat 16 k) = bytes[k] := by
  induction bytes generalizing m addr k with
  | nil => cases hk
  | cons b bs ih =>
    cases k with
    | zero =>
      rw [Memory.writeBytes, read_writeBytes_other fun j hj => ?_]
      · simp
      · rw [add_one_add_ofNat]
        exact (h (j + 1) (Nat.succ_pos j) (Nat.succ_lt_succ hj)).symm
    | succ k =>
      rw [Memory.writeBytes, ← add_one_add_ofNat, List.getElem_cons_succ]
      refine ih (Nat.lt_of_succ_lt_succ hk) fun j hkj hj => ?_
      rw [add_one_add_ofNat, add_one_add_ofNat]
      exact h (j + 1) (Nat.succ_lt_succ hkj) (Nat.succ_lt_succ hj)

/-- Settles O53: `load` is a contiguous write and `write_byte` one write, to memory alone. -/
theorem loadCommandWritesItsRangeOnly : Obligations.LoadCommandWritesItsRangeOnly := by
  intro s addr bytes
  simp only [← add_ofNat_eq_wrap16]
  refine ⟨rfl, fun k hk hlast => read_writeBytes_last hk hlast, fun other hout => read_writeBytes_other hout, ?_, rfl,
    fun v => rfl⟩
  rintro rfl
  rfl

/-! ### The host's reads -/

/-- Settles O54: the replies are the fields and the bytes read, and the state is handed back. -/
theorem hostReadsReportAndChangeNothing : Obligations.HostReadsReportAndChangeNothing := by
  intro s addr
  refine ⟨rfl, ?_, rfl, rfl⟩
  rw [← wordsAreLittleEndian, BitVec.ofNat_toNat, BitVec.setWidth_eq]
  rfl

end Sys2Proof.Proofs

/-! PROOFS. The statements of 70_reset_and_hazards.md on the state after reset and on safe runs. -/

namespace Sys2Proof.Proofs

open Sys2Proof.Machine Sys2Proof.Rules

/-- Settles O49: reset writes `pc` alone (`hostReset_eq_with_pc`), over the launch's values and zero counters. -/
theorem resetStateIsConstructionThenReset : Obligations.ResetStateIsConstructionThenReset :=
  ⟨fun p m => hostReset_eq_with_pc (State.construct p m), rfl⟩

theorem safeRun_of_next {s t : State} (h : step s = .next t) (n : Nat) :
    Safety.safeRun (n + 1) s = Safety.safeRun n t := by
  rw [Safety.safeRun, h]

theorem safeRun_of_fault {s : State} {f : Fault} (h : step s = .fault f) (n : Nat) :
    Safety.safeRun (n + 1) s = false := by
  rw [Safety.safeRun, h]

theorem safeRun_iff_completed (n : Nat) (s : State) : Safety.safeRun n s = true ↔ (stepN n s).2 = .completed := by
  induction n generalizing s with
  | zero => exact ⟨fun _ => rfl, fun _ => rfl⟩
  | succ n ih =>
    obtain ⟨t, ht⟩ | ⟨f, hf⟩ := step_next_or_fault s
    · rw [safeRun_of_next ht, stepN_of_next ht, ih]
    · simp [safeRun_of_fault hf, stepN_of_fault hf]

/-- A run is safe when its first byte is defined and, after it, the run from the next state is safe. -/
theorem safeRun_iff_opcodesDefined (n : Nat) (s : State) :
    Safety.safeRun n s = true ↔ ∀ k, k < n → Safety.opcodeDefined (stepN k s).1 = true := by
  induction n generalizing s with
  | zero => exact ⟨fun _ k hk => absurd hk (Nat.not_lt_zero k), fun _ => rfl⟩
  | succ n ih =>
    rw [Nat.forall_lt_succ_left']
    obtain ⟨hdefined, t, ht⟩ | ⟨hundefined, hf⟩ := everyStepCompletesOrIsADecodeFailure s
    · simp [safeRun_of_next ht, stepN_of_next ht, ih, hdefined]
    · simp [safeRun_of_fault hf, hundefined]

/-- Settles O59, by the two inductions on the number of steps. -/
theorem safeRunsAreTheCompletedStepCommands : Obligations.SafeRunsAreTheCompletedStepCommands :=
  fun n s => ⟨safeRun_iff_completed n s, safeRun_iff_opcodesDefined n s⟩

end Sys2Proof.Proofs
